-- ==== Sys2Proof/Config.lean ====
section
/-! DEFINITION. What an implementation fixes (00_scope.md R7), the literals of the document kept as named constants
(93_implementation_defined.md U13), and the free values. -/

namespace Sys2Proof.Config

/-- The reference value of `XLEN`, the width of the count word (R7, R84): every example of the spec and
`opcode_table.json` use it. `XLEN` itself is a parameter (decision D5, U18): every definition takes it, and a machine
carries its own in `State.xlen` (log 1). -/
abbrev refXlen : Nat := 32

/-- `MAXW`, the largest legal width of one field read (R7). -/
abbrev maxW : Nat := 32
/-- `RESW`, the width of a read result (R7). -/
abbrev resW : Nat := 32
/-- `FLAGW`, the width of the wideband flag (R7). -/
abbrev flagW : Nat := 1
/-- `TAGW`, the width of the wideband-submode tag (R7). -/
abbrev tagW : Nat := 3
/-- `CODEW`, the width of the submode selector (R7). -/
abbrev codeW : Nat := 4
/-- `HDRMIN`, the least number of bits a frame header needs (R7). -/
abbrev hdrMin : Nat := 5
/-- `MAXLAYERS`, the most nested wideband layers in one frame (R7); R141's algorithm is unrolled that far. -/
abbrev maxLayers : Nat := 2
/-- `LSPW`, the width of one LSP codebook index (R7). -/
abbrev lspW : Nat := 6
/-- Bits per buffer element (R7). -/
abbrev byteW : Nat := 8

/-- `WB_SKIP[1..7]`: seven entries no source gives (R74, N1). UNVERIFIED, an uninterpreted constant (log 2): a claim holds
for every table. Each entry is a value of XLEN bits. -/
opaque wbSkipEntry : (xlen : Nat) → BitVec tagW → BitVec xlen

/-- `WB_SKIP`, the wideband skip table of a block of width `xlen` (R74): each entry below 2^XLEN, `WB_SKIP[0] = 0`. -/
def wbSkip (xlen : Nat) (tag : BitVec tagW) : Nat :=
  if tag = 0 then 0 else (wbSkipEntry xlen tag).toNat

/-! Free values: what R173 leaves unspecified in a register after a fault. Each is applied to the counter
`State.fresh`, so every fault leaves a value of its own about which nothing can be proved (log 9). -/

/-- `POS` after a fault (R173). -/
opaque freePos : (xlen : Nat) → Nat → BitVec (xlen + 3)
/-- `RES` after a fault (R173). -/
opaque freeRes : Nat → BitVec resW
/-- `VLD` after a fault (R173). -/
opaque freeVld : Nat → Bool
/-- `CNT` after a fault (R173). -/
opaque freeCnt : (xlen : Nat) → Nat → BitVec xlen
/-- `FLG` after a fault (R173). -/
opaque freeFlg : Nat → Bool
/-- `SUB` after a fault (R173). -/
opaque freeSub : Nat → BitVec codeW
/-- `LSP[0..4]` after a fault (R173). -/
opaque freeLsp : Nat → Vector (BitVec lspW) 5

end Sys2Proof.Config
end

