-- ==== Sys2Proof/Word.lean ====
section
/-! DEFINITION. The words of the block, by the widths of 10_state.md R20. A value whose width is the parameter `XLEN` (a
count, a bit address, a command word) is a natural, below its power of two as R8 says; that it is below is stated
(`Instr.wf`, `State.Inv`). -/

namespace Sys2Proof

/-- One byte of the buffer (R22). -/
abbrev Byte : Type := BitVec Config.byteW
/-- A read result, `RES` (R28). -/
abbrev Result : Type := BitVec Config.resW
/-- A wideband-submode tag (R71). -/
abbrev Tag : Type := BitVec Config.tagW
/-- A submode code, `SUB` (R31, R75). -/
abbrev Code : Type := BitVec Config.codeW
/-- One LSP codebook index (R32). -/
abbrev LspIndex : Type := BitVec Config.lspW

end Sys2Proof
end

