-- ==== Sys2Proof/Syntax.lean ====
section
/-! DEFINITION. The instruction set: one constructor per row of `opcode_table.json`. The first sixteen rows are the
command words of 30_encoding.md R85 and R86; each keeps its operand `N`, a natural below 2^XLEN (also where R87 says it is ignored), so that no
bit of a command word is dropped. The other rows are the fields of the bitstream (R70 to R79): what the resolver and the LSP
readers take from the stream at the cursor, which R27 calls the block's program counter (log 4, log 5). -/

namespace Sys2Proof

/-- One row of `opcode_table.json` each. -/
inductive Instr where
  /-- `LOAD`, opcode `0x0`: `n` is `LEN` of the new buffer (R110). -/
  | load (n : Nat)
  /-- `REMAIN`, opcode `0x1`; the operand is ignored (R111, R87). -/
  | remain (n : Nat)
  /-- `HASREM`, opcode `0x2` (R112). -/
  | hasrem (n : Nat)
  /-- `RDBIT`, opcode `0x3`; the operand is ignored (R113, R87). -/
  | rdbit (n : Nat)
  /-- `RDBITS`, opcode `0x4`: an unsigned field of `n` bits (R114). -/
  | rdbits (n : Nat)
  /-- `RDBITSS`, opcode `0x5`: a signed field of `n` bits (R115). -/
  | rdbitss (n : Nat)
  /-- `TRYBIT`, opcode `0x6`; the operand is ignored (R116, R87). -/
  | trybit (n : Nat)
  /-- `TRYBITS`, opcode `0x7` (R117). -/
  | trybits (n : Nat)
  /-- `TRYBITSS`, opcode `0x8` (R118). -/
  | trybitss (n : Nat)
  /-- `SKIP`, opcode `0x9` (R119). -/
  | skip (n : Nat)
  /-- `FINDSUB`, opcode `0xA`; the operand is ignored (R141, R87). -/
  | findsub (n : Nat)
  /-- `LSPLBR`, opcode `0xB`; the operand is ignored (R160, R87). -/
  | lsplbr (n : Nat)
  /-- `LSPNB`, opcode `0xC`; the operand is ignored (R161, R87). -/
  | lspnb (n : Nat)
  /-- `RESERVED_D`, opcode `0xD`: fault `ILLEGAL_CMD` (R86). -/
  | reservedD (n : Nat)
  /-- `RESERVED_E`, opcode `0xE`: fault `ILLEGAL_CMD` (R86). -/
  | reservedE (n : Nat)
  /-- `RESERVED_F`, opcode `0xF`: fault `ILLEGAL_CMD` (R86). -/
  | reservedF (n : Nat)
  /-- `F1=0`: first wideband flag clear, `CODE` follows (R71). -/
  | f1Clear
  /-- `F1=1`: first wideband flag set, a layer follows (R71). -/
  | f1Set
  /-- `F2=0`: second wideband flag clear, `CODE` follows (R71). -/
  | f2Clear
  /-- `F2=1`: second wideband flag set, a second layer follows (R71). -/
  | f2Set
  /-- `F3=0`: third wideband flag clear, `CODE` follows (R71). -/
  | f3Clear
  /-- `F3=1`: third wideband flag set, fault `TOO_MANY_WB_LAYERS` (R146). -/
  | f3Set
  /-- `WBTAG_0`: a wideband-submode tag of value 0; its layer's payload of `WB_SKIP[0]` bits is skipped (R73, R74). -/
  | wbtag0
  /-- `WBTAG_1`: a wideband-submode tag of value 1; its layer's payload of `WB_SKIP[1]` bits is skipped (R73, R74). -/
  | wbtag1
  /-- `WBTAG_2`: a wideband-submode tag of value 2; its layer's payload of `WB_SKIP[2]` bits is skipped (R73, R74). -/
  | wbtag2
  /-- `WBTAG_3`: a wideband-submode tag of value 3; its layer's payload of `WB_SKIP[3]` bits is skipped (R73, R74). -/
  | wbtag3
  /-- `WBTAG_4`: a wideband-submode tag of value 4; its layer's payload of `WB_SKIP[4]` bits is skipped (R73, R74). -/
  | wbtag4
  /-- `WBTAG_5`: a wideband-submode tag of value 5; its layer's payload of `WB_SKIP[5]` bits is skipped (R73, R74). -/
  | wbtag5
  /-- `WBTAG_6`: a wideband-submode tag of value 6; its layer's payload of `WB_SKIP[6]` bits is skipped (R73, R74). -/
  | wbtag6
  /-- `WBTAG_7`: a wideband-submode tag of value 7; its layer's payload of `WB_SKIP[7]` bits is skipped (R73, R74). -/
  | wbtag7
  /-- `CODE_0`: submode selector 0: `Null`, `SUB <- 0` (R75). -/
  | code0
  /-- `CODE_1`: submode selector 1: `SM1`, `SUB <- 1` (R75). -/
  | code1
  /-- `CODE_2`: submode selector 2: `SM2`, `SUB <- 2` (R75). -/
  | code2
  /-- `CODE_3`: submode selector 3: `SM3`, `SUB <- 3` (R75). -/
  | code3
  /-- `CODE_4`: submode selector 4: `SM4`, `SUB <- 4` (R75). -/
  | code4
  /-- `CODE_5`: submode selector 5: `SM5`, `SUB <- 5` (R75). -/
  | code5
  /-- `CODE_6`: submode selector 6: `SM6`, `SUB <- 6` (R75). -/
  | code6
  /-- `CODE_7`: submode selector 7: `SM7`, `SUB <- 7` (R75). -/
  | code7
  /-- `CODE_8`: submode selector 8: `SM8`, `SUB <- 8` (R75). -/
  | code8
  /-- `CODE_9`: submode selector 9: reserved, fault `RESERVED_SUBMODE` (R75). -/
  | code9
  /-- `CODE_10`: submode selector 10: reserved, fault `RESERVED_SUBMODE` (R75). -/
  | code10
  /-- `CODE_11`: submode selector 11: reserved, fault `RESERVED_SUBMODE` (R75). -/
  | code11
  /-- `CODE_12`: submode selector 12: reserved, fault `RESERVED_SUBMODE` (R75). -/
  | code12
  /-- `CODE_13`: submode selector 13: user inband-request marker, fault `NH_USER_INBAND` (R75). -/
  | code13
  /-- `CODE_14`: submode selector 14: codec inband-request marker, fault `NH_CODEC_INBAND` (R75). -/
  | code14
  /-- `CODE_15`: submode selector 15: terminator marker, fault `NH_TERMINATOR` (R75). -/
  | code15
  /-- `LSP_LBR_RECORD`: the 18-bit record `LSPLBR` reads (R78). -/
  | lspLbrRecord (main low high : LspIndex)
  /-- `LSP_NB_RECORD`: the 30-bit record `LSPNB` reads (R79). -/
  | lspNbRecord (main low0 low1 high0 high1 : LspIndex)
  deriving DecidableEq, Repr

/-- The formats of the bitstream rows: which field the resolver or an LSP reader expects at the cursor (R70). -/
inductive FieldKind where
  /-- `F1`, 1 bit (R71). -/
  | flag1
  /-- `F2`, 1 bit (R71). -/
  | flag2
  /-- `F3`, 1 bit (R71). -/
  | flag3
  /-- `TAG1` or `TAG2`, 3 bits (R71). -/
  | tag
  /-- `CODE`, 4 bits (R71). -/
  | code
  /-- An Lbr LSP record, 18 bits (R78). -/
  | lspLbr
  /-- An Nb LSP record, 30 bits (R79). -/
  | lspNb
  deriving DecidableEq, Repr

/-- The formats of `opcode_table.json`: a command word, or a field of the bitstream (R70, R84). -/
inductive Format where
  /-- A command word (R84). -/
  | cmd
  /-- A field of the bitstream (R70). -/
  | field (k : FieldKind)
  deriving DecidableEq, Repr

/-- Why a numeral is no field of a kind. -/
inductive DecodeError where
  /-- The numeral has a bit above the format's width. -/
  | tooWide
  deriving DecidableEq, Repr

/-- `LtpFieldShape`: declared in the document, read by no command, no behaviour attached (R164, R80). -/
inductive LtpFieldShape where
  /-- No bits. -/
  | forcedPitch
  /-- One gain index. -/
  | gainOnly
  /-- Pitch index and gain index. -/
  | pitchPlusGain
  deriving DecidableEq, Repr

end Sys2Proof
end

