-- ==== Sys2Proof/WellFormed.lean ====
section
/-! DEFINITION. What makes an issued instruction well-formed for a block of a given `XLEN`: an operand `N` of XLEN bits
(30_encoding.md R84); and what comes with it: `LOAD`'s implicit argument (40_bitcursor.md R110: "bytes has exactly N
elements") and the numeral of a bitstream field. -/

namespace Sys2Proof

/-- The width of a bitstream field in bits (R71, R78, R79). -/
def FieldKind.width : FieldKind → Nat
  | .flag1 | .flag2 | .flag3 => Config.flagW
  | .tag => Config.tagW
  | .code => Config.codeW
  | .lspLbr => 3 * Config.lspW
  | .lspNb => 5 * Config.lspW

/-- The width of a format in bits (R70, R84). -/
def Format.width (xlen : Nat) : Format → Nat
  | .cmd => xlen + 4
  | .field k => k.width

/-- A numeral is a value of the field (R8: "a value of width `w` is a natural number below 2^w"). -/
def FieldKind.fits (k : FieldKind) (v : Nat) : Bool :=
  decide (v < 2 ^ k.width)

/-- The operand `N` of a command; none for a bitstream field (R84). -/
def Instr.operand : Instr → Option Nat
  | .load n | .remain n | .hasrem n | .rdbit n | .rdbits n | .rdbitss n | .trybit n | .trybits n | .trybitss n | .skip n
  | .findsub n | .lsplbr n | .lspnb n | .reservedD n | .reservedE n | .reservedF n => some n
  | .f1Clear | .f1Set | .f2Clear | .f2Set | .f3Clear | .f3Set
  | .wbtag0 | .wbtag1 | .wbtag2 | .wbtag3 | .wbtag4 | .wbtag5 | .wbtag6 | .wbtag7
  | .code0 | .code1 | .code2 | .code3 | .code4 | .code5 | .code6 | .code7
  | .code8 | .code9 | .code10 | .code11 | .code12 | .code13 | .code14 | .code15
  | .lspLbrRecord _ _ _ | .lspNbRecord _ _ _ _ _ => none

/-- The operand, where there is one, is a value of XLEN bits (R84). -/
def Instr.wf (xlen : Nat) (i : Instr) : Bool :=
  match i.operand with
  | some n => decide (n < 2 ^ xlen)
  | none => true

/-- A well-formed instruction with the bytes the platform supplies beside it: `LOAD` takes exactly `N` bytes, and no other
command takes any (R110). -/
def Instr.wfWith (xlen : Nat) (i : Instr) (bytes : List Byte) : Bool :=
  i.wf xlen &&
    match i with
    | .load n => bytes.length == n
    | _ => bytes.isEmpty

end Sys2Proof
end

