-- ==== Sys2Proof/Decode.lean ====
section
/-! DEFINITION. Decoding and encoding, from 30_encoding.md and `opcode_table.json`. A command word is one number of
XLEN+4 bits with no byte order of its own (R84), for any `XLEN`; a bitstream field is the number its bits make, first stream bit most
significant (R53, R70). Both directions are total; a numeral too wide for its format is refused by name. -/

namespace Sys2Proof

/-- `OP = CMD[XLEN+3 : XLEN]` (R84). -/
def commandOp (xlen w : Nat) : Nat := (w >>> xlen) % 16

/-- `N = CMD[XLEN-1 : 0]` (R84). -/
def commandN (xlen w : Nat) : Nat := w % 2 ^ xlen

/-- The opcode map of R85 and the reserved opcodes of R86; the last arm is `0xF`, the only opcode left. -/
def decodeOp (op : Nat) (n : Nat) : Instr :=
  match op with
  | 0 => .load n
  | 1 => .remain n
  | 2 => .hasrem n
  | 3 => .rdbit n
  | 4 => .rdbits n
  | 5 => .rdbitss n
  | 6 => .trybit n
  | 7 => .trybits n
  | 8 => .trybitss n
  | 9 => .skip n
  | 10 => .findsub n
  | 11 => .lsplbr n
  | 12 => .lspnb n
  | 13 => .reservedD n
  | 14 => .reservedE n
  | _ => .reservedF n

/-- A command word's instruction; every word has one (R85, R86). -/
def decodeCommand (xlen w : Nat) : Instr :=
  decodeOp (commandOp xlen w) (commandN xlen w)

/-- The eight wideband tags (R74); the last arm is 7. -/
def decodeTag (v : Nat) : Instr :=
  match v with
  | 0 => .wbtag0
  | 1 => .wbtag1
  | 2 => .wbtag2
  | 3 => .wbtag3
  | 4 => .wbtag4
  | 5 => .wbtag5
  | 6 => .wbtag6
  | _ => .wbtag7

/-- The sixteen submode selectors (R75); the last arm is 15. -/
def decodeCode (v : Nat) : Instr :=
  match v with
  | 0 => .code0
  | 1 => .code1
  | 2 => .code2
  | 3 => .code3
  | 4 => .code4
  | 5 => .code5
  | 6 => .code6
  | 7 => .code7
  | 8 => .code8
  | 9 => .code9
  | 10 => .code10
  | 11 => .code11
  | 12 => .code12
  | 13 => .code13
  | 14 => .code14
  | _ => .code15

/-- Bits `lo+5` to `lo` of a record's numeral, one LSP index (R78, R79). -/
def lspIndexAt (v lo : Nat) : LspIndex := BitVec.ofNat Config.lspW (v >>> lo)

/-- The element that value `v` of a bitstream field is (R71, R74, R75, R78, R79), for a value the field can hold. -/
def decodeFieldValue (k : FieldKind) (v : Nat) : Instr :=
  match k with
  | .flag1 => if v = 0 then .f1Clear else .f1Set
  | .flag2 => if v = 0 then .f2Clear else .f2Set
  | .flag3 => if v = 0 then .f3Clear else .f3Set
  | .tag => decodeTag v
  | .code => decodeCode v
  | .lspLbr => .lspLbrRecord (lspIndexAt v 12) (lspIndexAt v 6) (lspIndexAt v 0)
  | .lspNb => .lspNbRecord (lspIndexAt v 24) (lspIndexAt v 18) (lspIndexAt v 12) (lspIndexAt v 6) (lspIndexAt v 0)

/-- The element a numeral is as a field of kind `k`, or its rejection by name. -/
def decodeField (k : FieldKind) (v : Nat) : Except DecodeError Instr :=
  if k.fits v then .ok (decodeFieldValue k v) else .error .tooWide

/-- The instruction a numeral is in a format of a block of width `xlen`, or its rejection by name. -/
def decode (xlen : Nat) (f : Format) (v : Nat) : Except DecodeError Instr :=
  match f with
  | .cmd => if v < 2 ^ (xlen + 4) then .ok (decodeCommand xlen v) else .error .tooWide
  | .field k => decodeField k v

/-- `CMD = OP ‖ N` (R84) as a numeral. -/
def commandNumeral (xlen : Nat) (op : BitVec 4) (n : Nat) : Nat := op.toNat * 2 ^ xlen + n

/-- The format an instruction is written in. -/
def Instr.format : Instr → Format
  | .load _ => .cmd
  | .remain _ => .cmd
  | .hasrem _ => .cmd
  | .rdbit _ => .cmd
  | .rdbits _ => .cmd
  | .rdbitss _ => .cmd
  | .trybit _ => .cmd
  | .trybits _ => .cmd
  | .trybitss _ => .cmd
  | .skip _ => .cmd
  | .findsub _ => .cmd
  | .lsplbr _ => .cmd
  | .lspnb _ => .cmd
  | .reservedD _ => .cmd
  | .reservedE _ => .cmd
  | .reservedF _ => .cmd
  | .f1Clear => .field .flag1
  | .f1Set => .field .flag1
  | .f2Clear => .field .flag2
  | .f2Set => .field .flag2
  | .f3Clear => .field .flag3
  | .f3Set => .field .flag3
  | .wbtag0 => .field .tag
  | .wbtag1 => .field .tag
  | .wbtag2 => .field .tag
  | .wbtag3 => .field .tag
  | .wbtag4 => .field .tag
  | .wbtag5 => .field .tag
  | .wbtag6 => .field .tag
  | .wbtag7 => .field .tag
  | .code0 => .field .code
  | .code1 => .field .code
  | .code2 => .field .code
  | .code3 => .field .code
  | .code4 => .field .code
  | .code5 => .field .code
  | .code6 => .field .code
  | .code7 => .field .code
  | .code8 => .field .code
  | .code9 => .field .code
  | .code10 => .field .code
  | .code11 => .field .code
  | .code12 => .field .code
  | .code13 => .field .code
  | .code14 => .field .code
  | .code15 => .field .code
  | .lspLbrRecord _ _ _ => .field .lspLbr
  | .lspNbRecord _ _ _ _ _ => .field .lspNb

/-- The numeral of an instruction in its format: the command word (R84, R85, R86), or the value of the field with the first
stream bit most significant (R71, R74, R75, R78, R79). -/
def encode (xlen : Nat) : Instr → Nat
  | .load n => commandNumeral xlen 0x0#4 n
  | .remain n => commandNumeral xlen 0x1#4 n
  | .hasrem n => commandNumeral xlen 0x2#4 n
  | .rdbit n => commandNumeral xlen 0x3#4 n
  | .rdbits n => commandNumeral xlen 0x4#4 n
  | .rdbitss n => commandNumeral xlen 0x5#4 n
  | .trybit n => commandNumeral xlen 0x6#4 n
  | .trybits n => commandNumeral xlen 0x7#4 n
  | .trybitss n => commandNumeral xlen 0x8#4 n
  | .skip n => commandNumeral xlen 0x9#4 n
  | .findsub n => commandNumeral xlen 0xA#4 n
  | .lsplbr n => commandNumeral xlen 0xB#4 n
  | .lspnb n => commandNumeral xlen 0xC#4 n
  | .reservedD n => commandNumeral xlen 0xD#4 n
  | .reservedE n => commandNumeral xlen 0xE#4 n
  | .reservedF n => commandNumeral xlen 0xF#4 n
  | .f1Clear => 0
  | .f1Set => 1
  | .f2Clear => 0
  | .f2Set => 1
  | .f3Clear => 0
  | .f3Set => 1
  | .wbtag0 => 0
  | .wbtag1 => 1
  | .wbtag2 => 2
  | .wbtag3 => 3
  | .wbtag4 => 4
  | .wbtag5 => 5
  | .wbtag6 => 6
  | .wbtag7 => 7
  | .code0 => 0
  | .code1 => 1
  | .code2 => 2
  | .code3 => 3
  | .code4 => 4
  | .code5 => 5
  | .code6 => 6
  | .code7 => 7
  | .code8 => 8
  | .code9 => 9
  | .code10 => 10
  | .code11 => 11
  | .code12 => 12
  | .code13 => 13
  | .code14 => 14
  | .code15 => 15
  | .lspLbrRecord main low high => (main ++ low ++ high).toNat
  | .lspNbRecord main low0 low1 high0 high1 => (main ++ low0 ++ low1 ++ high0 ++ high1).toNat

/-- Which format a table row of `nbits` bits, or of its whole bytes, is in: a flag has 1 bit, a tag 3, a selector 4 (8 in
whole bytes), an Lbr record 18 (24), an Nb record 30 (32), a command word 36 (40), since the table is written for `XLEN = 32`. The stream itself never asks this: there
the resolver knows which field it expects. A flag alone is read as `F1`, and a numeral in one whole byte as a selector
(DESIGN CHOICE, log 6). -/
def tableFormat (nbits : Nat) : Format :=
  if nbits ≤ 1 then .field .flag1
  else if nbits ≤ 3 then .field .tag
  else if nbits ≤ 8 then .field .code
  else if nbits ≤ 24 then .field .lspLbr
  else if nbits ≤ 32 then .field .lspNb
  else .cmd

/-- The instruction the decoder reads from a row's word `w` of `nbits` bits, numbered as `opcode_table.json` numbers them. -/
def decodeTableWord (nbits w : Nat) : Option Instr :=
  match decode Config.refXlen (tableFormat nbits) w with
  | .ok i => some i
  | .error _ => none

end Sys2Proof
end

