-- ==== Sys2Proof/Machine/State.lean ====
section
/-! DEFINITION. The state of one instance of the block (10_state.md R20, R62), what the host has issued to it, why a step can
stop, and the state after reset (R37). -/

namespace Sys2Proof.Machine

/-- The causes of a fault, in the order of their codes 1 to 11 (R171). Raising one is a NEXT state (R172). -/
inductive Cause where
  /-- An unchecked read or a skip with too few bits left. -/
  | underrun
  /-- A read wider than 32 bits. -/
  | width
  /-- Too few bits for a frame header. -/
  | notEnoughBits
  /-- A third consecutive wideband flag is 1. -/
  | tooManyWbLayers
  /-- Submode code 9, 10, 11 or 12. -/
  | reservedSubmode
  /-- Submode code 13. -/
  | nhUserInband
  /-- Submode code 14. -/
  | nhCodecInband
  /-- Submode code 15. -/
  | nhTerminator
  /-- A signed read of width 0. -/
  | signedZeroWidth
  /-- Opcode `0xD`, `0xE` or `0xF`. -/
  | illegalCmd
  /-- The remaining-bit count does not fit in XLEN bits. -/
  | countOverflow
  deriving DecidableEq, Repr

/-- Why the MODEL stops (the block's own faults are next states, R172). -/
inductive Fault where
  /-- Raised by `State.memRead` for a byte at or beyond `BUF[LEN]`, where R50 defines nothing. SAFE: the model stops. No
  instruction reaches it, because every consumer checks first (R56, log 10). -/
  | outsideBuffer (addr : Nat)
  deriving DecidableEq, Repr

/-- Why the model gives an instruction no meaning. -/
inductive Refusal where
  /-- Raised by `exec` alone, for an instruction with no meaning yet. SAFE. No arm answers it now. -/
  | notModelled (mnemonic : String)
  /-- Raised by `step` for a numeral at the command port that is no word of XLEN+4 bits, which no host can issue (R84): a
  state that meets `State.Inv` holds none. Raised by `runField` if the bits fetched for a field were no value of it, which
  no step reaches: the fetch takes exactly the field's width (log 4). SAFE. -/
  | undecodable (e : DecodeError)
  deriving DecidableEq, Repr

/-- What stands at the block's input (R21: the command word "is an input of the step"). -/
inductive Request where
  /-- Reset is asserted (R200; log 12). -/
  | reset
  /-- A command word of XLEN+4 bits at the command port, with the bytes the platform supplies beside it (R84, R110). -/
  | command (w : Nat) (bytes : List Byte)
  /-- The resolver or an LSP reader takes one field at the cursor on its own. The MODEL's request, which no host can make
  (log 4). -/
  | field (k : FieldKind)
  deriving DecidableEq, Repr

/-- The state of one instance: its parameter, the registers of R20, then the model's own fields.
`LEN`, `POS` and `CNT` are naturals below the powers of two that `xlen` gives them (`State.Inv`). -/
structure State where
  /-- `XLEN`, the width this block is built with. Not a register (R21): no step writes it, and reset keeps it (R37; log 1). -/
  xlen : Nat
  /-- `BUF`, the byte buffer, as the canonical list of its non-zero bytes below `LEN` (R22; log 8). -/
  buf : List Host.Cell
  /-- `LEN`, the number of bytes in `BUF`, XLEN bits (R23). -/
  len : Nat
  /-- `POS`, the number of stream bits consumed (R24, R27), XLEN+3 bits. -/
  pos : Nat
  /-- `RES`, the value of the last read (R28). -/
  res : Result
  /-- `VLD`, whether the last read produced a value (R29). -/
  vld : Bool
  /-- `CNT`, the count of the last `REMAIN`, XLEN bits (R30). -/
  cnt : Nat
  /-- `FLG`, the answer of the last `HASREM` (R30). -/
  flg : Bool
  /-- `SUB`, the submode code of the last `FINDSUB` (R31). -/
  sub : Code
  /-- `LSP[0..4]`, one quantized-LSP record (R32). -/
  lsp : Vector LspIndex 5
  /-- `FAULT`, sticky (R34). -/
  fault : Bool
  /-- `CAUSE`, 0 while `FAULT = 0` (R34, R171). -/
  cause : BitVec 4
  /-- The model's own: what has been issued and not yet taken, oldest first (log 3). -/
  port : List Request
  /-- The model's own: the bytes supplied with the command being executed (R110; log 7). -/
  din : List Byte
  /-- The model's own: the index of the next free value (R173; log 9). -/
  fresh : Nat
  /-- The model's own: the fault mark of R209, set with `FAULT` and not cleared by `LOAD` (log 11). -/
  everFaulted : Bool
  deriving DecidableEq, Repr

/-- The state after reset of a block of width `xlen` (R37, R200): an empty buffer, an exhausted cursor, every register 0;
nothing issued yet. -/
def State.resetOf (xlen : Nat) : State :=
  { xlen := xlen, buf := [], len := 0, pos := 0, res := 0, vld := false, cnt := 0, flg := false, sub := 0,
    lsp := #v[0, 0, 0, 0, 0], fault := false, cause := 0,
    port := [], din := [], fresh := 0, everFaulted := false }

/-- The state after reset of the block of the reference width. -/
def State.reset : State := State.resetOf Config.refXlen

end Sys2Proof.Machine
end

