-- ==== Sys2Proof/Machine/Ops.lean ====
section
/-! DEFINITION. The named operations of the block: the buffer and its bit order (20_memory.md), the cursor and its view
(10_state.md R24), the outcome of a procedure, fault entry and the way out of a fault (60_exceptions.md R172 to R175). -/

namespace Sys2Proof.Machine

/-! ### The buffer -/

/-- A buffer as cells in canonical form: addresses strictly rising, no cell equal to what an unlisted address reads as,
which is 0 (log 8). -/
def Memory.wf : List Host.Cell → Bool
  | [] => true
  | [(_, v)] => v != 0
  | (a, v) :: (b, w) :: rest => v != 0 && decide (a < b) && Memory.wf ((b, w) :: rest)

/-- The byte listed at an address, 0 where none is listed. -/
def Memory.read (cells : List Host.Cell) (a : Nat) : Byte :=
  match cells with
  | [] => 0
  | (b, v) :: rest => if b = a then v else Memory.read rest a

/-- The cells of at most `n` bytes laid out from address `a` on. -/
def Memory.layout (a n : Nat) (bytes : List Byte) : List Host.Cell :=
  match bytes with
  | [] => []
  | v :: rest =>
    if n = 0 then []
    else if v = 0 then Memory.layout (a + 1) (n - 1) rest
    else (a, v) :: Memory.layout (a + 1) (n - 1) rest

/-- The cells of a buffer of `n` bytes whose byte `i` is `bytes[i]` (R110), 0 past the list's end (log 7). -/
def Memory.ofBytes (n : Nat) (bytes : List Byte) : List Host.Cell :=
  Memory.layout 0 n bytes

/-- `MemRead(a, 1)`: `BUF[a]` for `a < LEN`, undefined elsewhere (R50); the only access there is (R55, R57). -/
def State.memRead (s : State) (a : Nat) : Except Fault Byte :=
  if a < s.len then .ok (Memory.read s.buf a) else .error (.outsideBuffer a)

/-- `StreamBit(k) = MemRead(k div 8, 1)[7 - (k mod 8)]`: most significant bit first in ascending bytes (R51, R52). -/
def State.streamBit (s : State) (k : Nat) : Except Fault Bool :=
  match s.memRead (k / Config.byteW) with
  | .ok v => .ok (v.getLsbD (Config.byteW - 1 - k % Config.byteW))
  | .error f => .error f

/-! ### The cursor -/

/-- The number of bits in the buffer, `8*LEN`. -/
def State.bits (s : State) : Nat := Config.byteW * s.len

/-- `Remaining() = 8*LEN - POS`, the exact natural (R100). -/
def State.remaining (s : State) : Nat := s.bits - s.pos

/-- `NXT`, the index of the first undelivered byte (R24). -/
def State.nxt (s : State) : Nat :=
  if s.pos < s.bits then s.pos / Config.byteW + 1 else s.len

/-- `AVAIL`, the bits left in the current byte (R24). -/
def State.avail (s : State) : BitVec 4 :=
  if s.pos < s.bits then BitVec.ofNat _ (Config.byteW - s.pos % Config.byteW) else 0

/-- `CUR`, the byte being drained; none when the cursor is exhausted, where it is not observable (R24, U10, log 13). -/
def State.cur (s : State) : Option Byte :=
  if s.pos < s.bits then some (Memory.read s.buf (s.pos / Config.byteW)) else none

/-- `POS <- POS + n`. No caller moves past `8*LEN`, which fits in XLEN+3 bits, so nothing wraps (R27). -/
def State.advance (s : State) (n : Nat) : State :=
  { s with pos := s.pos + n }

/-! ### Faults of the block -/

/-- The code latched in `CAUSE` (R171). -/
def Cause.code : Cause → BitVec 4
  | .underrun => 1
  | .width => 2
  | .notEnoughBits => 3
  | .tooManyWbLayers => 4
  | .reservedSubmode => 5
  | .nhUserInband => 6
  | .nhCodecInband => 7
  | .nhTerminator => 8
  | .signedZeroWidth => 9
  | .illegalCmd => 10
  | .countOverflow => 11

/-- Fault entry: `FAULT <- 1`, `CAUSE <- c` (R172); `BUF` and `LEN` unchanged, every other register of R20 unspecified, so
a free value (R173, log 9). The mark of R209 is set. -/
def State.takeFault (s : State) (c : Cause) : State :=
  { s with
    fault := true
    cause := c.code
    pos := (Config.freePos s.xlen s.fresh).toNat
    res := Config.freeRes s.fresh
    vld := Config.freeVld s.fresh
    cnt := (Config.freeCnt s.xlen s.fresh).toNat
    flg := Config.freeFlg s.fresh
    sub := Config.freeSub s.fresh
    lsp := Config.freeLsp s.fresh
    fresh := s.fresh + 1
    everFaulted := true }

/-- `LOAD`'s effect (R110): bind `n` bytes, rewind the cursor, clear every result register, `FAULT` and `CAUSE`. With reset
it is the only way out of a fault; there is no return to the command that raised it (R175). -/
def State.bindBuffer (s : State) (n : Nat) (bytes : List Byte) : State :=
  { s with
    buf := Memory.ofBytes n bytes
    len := n
    pos := 0
    res := 0
    vld := false
    cnt := 0
    flg := false
    sub := 0
    lsp := #v[0, 0, 0, 0, 0]
    fault := false
    cause := 0 }

/-- Reset asserted at the port (R200): every register of R20 at its reset value; a run begins (R209). `XLEN` is not
reset (R37). What is still queued and the index of the next free value are the model's own and stay (log 12). -/
def State.resetBlock (s : State) : State :=
  { State.resetOf s.xlen with port := s.port, fresh := s.fresh }

/-! ### Procedures -/

/-- What a procedure of the pseudocode ends in (R9). -/
inductive Proc (α : Type) where
  /-- It returns `a` in state `s`. -/
  | done (a : α) (s : State)
  /-- `raise Fault(c)`: nothing after it runs (R9), and none of its writes count (R109). -/
  | raise (c : Cause)
  /-- The model stops. -/
  | stop (f : Fault)

/-- One pseudocode line after another. -/
def Proc.andThen {α β : Type} (p : Proc α) (k : α → State → Proc β) : Proc β :=
  match p with
  | .done a s => k a s
  | .raise c => .raise c
  | .stop f => .stop f

/-- A command from state `s`: ignored while `FAULT = 1` (R174); otherwise its pseudocode runs, and a raised fault is taken
from the state the command began in (R109, R172). -/
def State.command (s : State) (p : State → Proc Unit) : Host.Outcome State Fault Refusal :=
  if s.fault then .next s
  else
    match p s with
    | .done _ t => .next t
    | .raise c => .next (s.takeFault c)
    | .stop f => .fault f

/-- `ReadBit()` (R102): the next bit, advancing the cursor by one. -/
def State.readBit (s : State) : Proc Bool :=
  if s.remaining < 1 then .raise .underrun
  else
    match s.streamBit s.pos with
    | .ok b => .done b (s.advance 1)
    | .error f => .stop f

/-- The loop of `ReadBits` (R103): `n` more bits onto the value `v`, first bit most significant. -/
def State.readLoop (s : State) (n v : Nat) : Proc Nat :=
  match n with
  | 0 => .done v s
  | n + 1 => s.readBit.andThen fun b t => t.readLoop n (2 * v + b.toNat)

/-- `SkipBits(n)` (R106): forward by `n` bits, reading none of them. -/
def State.skipBits (s : State) (n : Nat) : Proc Unit :=
  if s.remaining < n then .raise .underrun else .done () (s.advance n)

end Sys2Proof.Machine
end

