-- ==== Sys2Proof/Machine/Flags.lean ====
section
/-! DEFINITION. The flags and counts: the truth value of `HASREM`, the count of `REMAIN`, and how a read leaves `RES` and
`VLD` (10_state.md R28 to R30). -/

namespace Sys2Proof.Machine

/-- `HasRemaining(n)`: the truth value `Remaining() ≥ n`, never a fault (R101). -/
def State.hasRemaining (s : State) (n : Nat) : Bool := decide (n ≤ s.remaining)

/-- `if not HasRemaining(n) then raise Fault(c)`, the availability checks of R141. -/
def State.requireBits (s : State) (n : Nat) (c : Cause) : Proc Unit :=
  if s.hasRemaining n then .done () s else .raise c

/-- `satmul8(x) = min(8*x, 2^XLEN - 1)` (R101). -/
def satMul8 (xlen x : Nat) : Nat := min (Config.byteW * x) (2 ^ xlen - 1)

/-- `satadd(x, y) = min(x + y, 2^XLEN - 1)` (R101). -/
def satAdd (xlen x y : Nat) : Nat := min (x + y) (2 ^ xlen - 1)

/-- `HasRemaining(n)` as XLEN-bit hardware computes it, over the three-field view (R101, R24). -/
def State.hasRemainingSat (s : State) (n : Nat) : Bool :=
  decide (n ≤ satAdd s.xlen (satMul8 s.xlen (s.len - s.nxt)) s.avail.toNat)

/-- `FLG <- b` (R30). -/
def State.setFlg (s : State) (b : Bool) : State := { s with flg := b }

/-- `CNT <- r` (R30). -/
def State.setCnt (s : State) (r : Nat) : State := { s with cnt := r }

/-- How a read leaves `RES` and `VLD`: a value with `VLD = 1`, or `RES = 0`, `VLD = 0` for the empty result (R28, R29). -/
def State.setRead (s : State) (r : Option Result) : State :=
  { s with res := r.getD 0, vld := r.isSome }

/-- `CNT <- Remaining()`, or the fault where the count does not fit in XLEN bits (R111). -/
def State.countRemaining (s : State) : Proc Unit :=
  if s.remaining ≥ 2 ^ s.xlen then .raise .countOverflow
  else .done () (s.setCnt s.remaining)

end Sys2Proof.Machine
end

