-- ==== Sys2Proof/Machine/Operands.lean ====
section
/-! DEFINITION. The forms of the operand `N` and of the values read: the legal widths (30_encoding.md R87), unsigned and
signed assembly (R81, R82), and the read procedures over them (40_bitcursor.md R103 to R105). -/

namespace Sys2Proof.Machine

/-- `zext_32(v)` (R9, R81). -/
def zext32 (v : Nat) : Result := BitVec.ofNat _ v

/-- `sext_32(v, n)` for `1 ≤ n ≤ 32` and `v < 2^n`: `v` if its top bit is 0, else `v + 2^32 - 2^n` (R9, R82). -/
def sext32 (v n : Nat) : Result :=
  if v.testBit (n - 1) then BitVec.ofNat _ (v + 2 ^ Config.resW - 2 ^ n) else BitVec.ofNat _ v

/-- The width check of an unsigned read (R103, R105). -/
def State.checkWidth (s : State) (n : Nat) : Proc Unit :=
  if n > Config.maxW then .raise .width else .done () s

/-- The width checks of a signed read, in R104's order. -/
def State.checkSignedWidth (s : State) (n : Nat) : Proc Unit :=
  if n > Config.maxW then .raise .width
  else if n = 0 then .raise .signedZeroWidth
  else .done () s

/-- `ReadBits(n)` (R103). -/
def State.readBits (s : State) (n : Nat) : Proc Nat :=
  (s.checkWidth n).andThen fun _ s => s.readLoop n 0

/-- `ReadBitsSigned(n)` (R104). -/
def State.readBitsSigned (s : State) (n : Nat) : Proc Result :=
  (s.checkSignedWidth n).andThen fun _ s =>
  (s.readBits n).andThen fun u s =>
  .done (sext32 u n) s

/-- `TryReadBit()` (R105); the empty result leaves the cursor where it was. -/
def State.tryReadBit (s : State) : Proc (Option Bool) :=
  if s.hasRemaining 1 then s.readBit.andThen fun b s => .done (some b) s
  else .done none s

/-- `TryReadBits(n)` (R105). -/
def State.tryReadBits (s : State) (n : Nat) : Proc (Option Nat) :=
  (s.checkWidth n).andThen fun _ s =>
  if s.hasRemaining n then (s.readBits n).andThen fun v s => .done (some v) s
  else .done none s

/-- `TryReadBitsSigned(n)` (R105). -/
def State.tryReadBitsSigned (s : State) (n : Nat) : Proc (Option Result) :=
  (s.checkSignedWidth n).andThen fun _ s =>
  if s.hasRemaining n then (s.readBitsSigned n).andThen fun v s => .done (some v) s
  else .done none s

end Sys2Proof.Machine
end

