-- ==== Sys2Proof/Machine/Cursor.lean ====
section
/-! DEFINITION. The ten cursor commands (40_bitcursor.md, part 2). -/

namespace Sys2Proof.Machine

/-- `LOAD` (R110): binds the `n` bytes the platform supplies. It alone runs while `FAULT = 1` (R174), and it never faults. -/
def execLoad (n : Nat) (s : State) : Host.Outcome State Fault Refusal :=
  .next (s.bindBuffer n s.din)

/-- `REMAIN` (R111). -/
def execRemain (s : State) : Host.Outcome State Fault Refusal :=
  s.command fun s => s.countRemaining

/-- `HASREM n` (R112). -/
def execHasrem (n : Nat) (s : State) : Host.Outcome State Fault Refusal :=
  s.command fun s => .done () (s.setFlg (s.hasRemaining n))

/-- `RDBIT` (R113). -/
def execRdbit (s : State) : Host.Outcome State Fault Refusal :=
  s.command fun s => s.readBit.andThen fun b s => .done () (s.setRead (some (zext32 b.toNat)))

/-- `RDBITS n` (R114). -/
def execRdbits (n : Nat) (s : State) : Host.Outcome State Fault Refusal :=
  s.command fun s => (s.readBits n).andThen fun v s => .done () (s.setRead (some (zext32 v)))

/-- `RDBITSS n` (R115). -/
def execRdbitss (n : Nat) (s : State) : Host.Outcome State Fault Refusal :=
  s.command fun s => (s.readBitsSigned n).andThen fun v s => .done () (s.setRead (some v))

/-- `TRYBIT` (R116). -/
def execTrybit (s : State) : Host.Outcome State Fault Refusal :=
  s.command fun s => s.tryReadBit.andThen fun r s => .done () (s.setRead (r.map fun b => zext32 b.toNat))

/-- `TRYBITS n` (R117). -/
def execTrybits (n : Nat) (s : State) : Host.Outcome State Fault Refusal :=
  s.command fun s => (s.tryReadBits n).andThen fun r s => .done () (s.setRead (r.map zext32))

/-- `TRYBITSS n` (R118). -/
def execTrybitss (n : Nat) (s : State) : Host.Outcome State Fault Refusal :=
  s.command fun s => (s.tryReadBitsSigned n).andThen fun r s => .done () (s.setRead r)

/-- `SKIP n` (R119). -/
def execSkip (n : Nat) (s : State) : Host.Outcome State Fault Refusal :=
  s.command fun s => s.skipBits n

end Sys2Proof.Machine
end

