-- ==== Sys2Proof/Machine/FrameHeader.lean ====
section
/-! DEFINITION. The frame-header resolver (41_frame_header.md): `FINDSUB`, and the fields of a header one at a time
(30_encoding.md R71 to R77). The wideband skip table is an argument of the shared operations, so that they can be held
beside the spec's examples, which use tables of their own; the instructions use `Config.wbSkip`. -/

namespace Sys2Proof.Machine

/-- `SUB <- c` (R31). -/
def State.setSub (s : State) (c : Code) : State := { s with sub := c }

/-- The outcome of a submode code (R75, R147): `SUB <- c` for 0 to 8, a fault cause for 9 to 15. -/
def State.selectSubmode (s : State) (c : Nat) : Proc Unit :=
  if c ≤ 8 then .done () (s.setSub (BitVec.ofNat _ c))
  else if c ≤ 12 then .raise .reservedSubmode
  else if c = 13 then .raise .nhUserInband
  else if c = 14 then .raise .nhCodecInband
  else .raise .nhTerminator

/-- Step 2a of R141: read a 3-bit tag, look its skip length up, discard that many bits (R73, R74). -/
def State.skipLayer (s : State) (table : Tag → Nat) : Proc Unit :=
  (s.readBits Config.tagW).andThen fun tag s => s.skipBits (table (BitVec.ofNat _ tag))

/-- Step 2c of R141 from the second flag on: a second layer if it is set, then the third flag, read unchecked (R145),
which must be 0 (R146). -/
def State.secondLayer (s : State) (table : Tag → Nat) (f2 : Bool) : Proc Unit :=
  if f2 then
    (s.skipLayer table).andThen fun _ s =>
    s.readBit.andThen fun f3 s =>
    if f3 then .raise .tooManyWbLayers else .done () s
  else .done () s

/-- Step 2 of R141 from the first flag on: skip a layer if it is set, require a minimum header again, read the second
flag. -/
def State.firstLayer (s : State) (table : Tag → Nat) (f1 : Bool) : Proc Unit :=
  if f1 then
    (s.skipLayer table).andThen fun _ s =>
    (s.requireBits Config.hdrMin .notEnoughBits).andThen fun _ s =>
    s.readBit.andThen fun f2 s =>
    s.secondLayer table f2
  else .done () s

/-- Step 3 of R141: the checked read of the selector, and its outcome. -/
def State.readSelector (s : State) : Proc Unit :=
  (s.tryReadBits Config.codeW).andThen fun c s =>
  match c with
  | none => .raise .notEnoughBits
  | some c => s.selectSubmode c

/-- `find_next_submode` (R141). -/
def State.findSubmode (s : State) (table : Tag → Nat) : Proc Unit :=
  (s.requireBits Config.hdrMin .notEnoughBits).andThen fun _ s =>
  s.readBit.andThen fun f1 s =>
  (s.firstLayer table f1).andThen fun _ s =>
  s.readSelector

/-- `FINDSUB` (R141). -/
def execFindsub (s : State) : Host.Outcome State Fault Refusal :=
  s.command fun s => s.findSubmode (Config.wbSkip s.xlen)

/-! ### One field at a time

What R141 does with a field once the field's value is known: its availability check, its bits, its effect (log 5). -/

/-- `F1` or `F2`: steps 1 and 2b require a minimum header, then the flag is one bit (R141). -/
def State.takeFlag (s : State) : Proc Unit :=
  (s.requireBits Config.hdrMin .notEnoughBits).andThen fun _ s => s.skipBits Config.flagW

/-- `F3`: one bit with no check of its own (R145); set, it is a third layer (R146). -/
def State.takeThirdFlag (s : State) (f3 : Bool) : Proc Unit :=
  (s.skipBits Config.flagW).andThen fun _ s => if f3 then .raise .tooManyWbLayers else .done () s

/-- `TAG1` or `TAG2` of value `tag`, and its layer's payload (R73). -/
def State.takeTag (s : State) (table : Tag → Nat) (tag : Tag) : Proc Unit :=
  (s.skipBits Config.tagW).andThen fun _ s => s.skipBits (table tag)

/-- `CODE` of value `c`: the checked read's availability test, its bits, its outcome (R141 step 3, R75). -/
def State.takeCode (s : State) (c : Nat) : Proc Unit :=
  (s.requireBits Config.codeW .notEnoughBits).andThen fun _ s =>
  (s.skipBits Config.codeW).andThen fun _ s => s.selectSubmode c

/-- `F1=0` (R71). -/
def execF1Clear (s : State) : Host.Outcome State Fault Refusal :=
  s.command fun s => s.takeFlag

/-- `F1=1` (R71). -/
def execF1Set (s : State) : Host.Outcome State Fault Refusal :=
  s.command fun s => s.takeFlag

/-- `F2=0` (R71). -/
def execF2Clear (s : State) : Host.Outcome State Fault Refusal :=
  s.command fun s => s.takeFlag

/-- `F2=1` (R71). -/
def execF2Set (s : State) : Host.Outcome State Fault Refusal :=
  s.command fun s => s.takeFlag

/-- `F3=0` (R71). -/
def execF3Clear (s : State) : Host.Outcome State Fault Refusal :=
  s.command fun s => s.takeThirdFlag false

/-- `F3=1` (R146). -/
def execF3Set (s : State) : Host.Outcome State Fault Refusal :=
  s.command fun s => s.takeThirdFlag true

/-- `WBTAG_0`: the tag is taken and `WB_SKIP[0]` bits are skipped (R74). -/
def execWbtag0 (s : State) : Host.Outcome State Fault Refusal :=
  s.command fun s => s.takeTag (Config.wbSkip s.xlen) 0

/-- `WBTAG_1`: the tag is taken and `WB_SKIP[1]` bits are skipped (R74). -/
def execWbtag1 (s : State) : Host.Outcome State Fault Refusal :=
  s.command fun s => s.takeTag (Config.wbSkip s.xlen) 1

/-- `WBTAG_2`: the tag is taken and `WB_SKIP[2]` bits are skipped (R74). -/
def execWbtag2 (s : State) : Host.Outcome State Fault Refusal :=
  s.command fun s => s.takeTag (Config.wbSkip s.xlen) 2

/-- `WBTAG_3`: the tag is taken and `WB_SKIP[3]` bits are skipped (R74). -/
def execWbtag3 (s : State) : Host.Outcome State Fault Refusal :=
  s.command fun s => s.takeTag (Config.wbSkip s.xlen) 3

/-- `WBTAG_4`: the tag is taken and `WB_SKIP[4]` bits are skipped (R74). -/
def execWbtag4 (s : State) : Host.Outcome State Fault Refusal :=
  s.command fun s => s.takeTag (Config.wbSkip s.xlen) 4

/-- `WBTAG_5`: the tag is taken and `WB_SKIP[5]` bits are skipped (R74). -/
def execWbtag5 (s : State) : Host.Outcome State Fault Refusal :=
  s.command fun s => s.takeTag (Config.wbSkip s.xlen) 5

/-- `WBTAG_6`: the tag is taken and `WB_SKIP[6]` bits are skipped (R74). -/
def execWbtag6 (s : State) : Host.Outcome State Fault Refusal :=
  s.command fun s => s.takeTag (Config.wbSkip s.xlen) 6

/-- `WBTAG_7`: the tag is taken and `WB_SKIP[7]` bits are skipped (R74). -/
def execWbtag7 (s : State) : Host.Outcome State Fault Refusal :=
  s.command fun s => s.takeTag (Config.wbSkip s.xlen) 7

/-- `CODE_0` (R75). -/
def execCode0 (s : State) : Host.Outcome State Fault Refusal :=
  s.command fun s => s.takeCode 0

/-- `CODE_1` (R75). -/
def execCode1 (s : State) : Host.Outcome State Fault Refusal :=
  s.command fun s => s.takeCode 1

/-- `CODE_2` (R75). -/
def execCode2 (s : State) : Host.Outcome State Fault Refusal :=
  s.command fun s => s.takeCode 2

/-- `CODE_3` (R75). -/
def execCode3 (s : State) : Host.Outcome State Fault Refusal :=
  s.command fun s => s.takeCode 3

/-- `CODE_4` (R75). -/
def execCode4 (s : State) : Host.Outcome State Fault Refusal :=
  s.command fun s => s.takeCode 4

/-- `CODE_5` (R75). -/
def execCode5 (s : State) : Host.Outcome State Fault Refusal :=
  s.command fun s => s.takeCode 5

/-- `CODE_6` (R75). -/
def execCode6 (s : State) : Host.Outcome State Fault Refusal :=
  s.command fun s => s.takeCode 6

/-- `CODE_7` (R75). -/
def execCode7 (s : State) : Host.Outcome State Fault Refusal :=
  s.command fun s => s.takeCode 7

/-- `CODE_8` (R75). -/
def execCode8 (s : State) : Host.Outcome State Fault Refusal :=
  s.command fun s => s.takeCode 8

/-- `CODE_9` (R75). -/
def execCode9 (s : State) : Host.Outcome State Fault Refusal :=
  s.command fun s => s.takeCode 9

/-- `CODE_10` (R75). -/
def execCode10 (s : State) : Host.Outcome State Fault Refusal :=
  s.command fun s => s.takeCode 10

/-- `CODE_11` (R75). -/
def execCode11 (s : State) : Host.Outcome State Fault Refusal :=
  s.command fun s => s.takeCode 11

/-- `CODE_12` (R75). -/
def execCode12 (s : State) : Host.Outcome State Fault Refusal :=
  s.command fun s => s.takeCode 12

/-- `CODE_13` (R75). -/
def execCode13 (s : State) : Host.Outcome State Fault Refusal :=
  s.command fun s => s.takeCode 13

/-- `CODE_14` (R75). -/
def execCode14 (s : State) : Host.Outcome State Fault Refusal :=
  s.command fun s => s.takeCode 14

/-- `CODE_15` (R75). -/
def execCode15 (s : State) : Host.Outcome State Fault Refusal :=
  s.command fun s => s.takeCode 15

end Sys2Proof.Machine
end

