-- ==== Sys2Proof/Machine/Lsp.lean ====
section
/-! DEFINITION. The quantized-LSP field readers (42_lsp_readers.md) and the two records they read (R78, R79). -/

namespace Sys2Proof.Machine

/-- `LSP[0..4] <- r` (R32). -/
def State.setLsp (s : State) (r : Vector LspIndex 5) : State := { s with lsp := r }

/-- One 6-bit unsigned index (R162: all 64 values are delivered as they are). -/
def State.readIndex (s : State) : Proc LspIndex :=
  (s.readBits Config.lspW).andThen fun v s => .done (BitVec.ofNat _ v) s

/-- `LSPLBR` (R160): main, low, high, and the two unused elements 0. -/
def execLsplbr (s : State) : Host.Outcome State Fault Refusal :=
  s.command fun s =>
  s.readIndex.andThen fun m s =>
  s.readIndex.andThen fun l s =>
  s.readIndex.andThen fun h s =>
  .done () (s.setLsp #v[m, l, h, 0, 0])

/-- `LSPNB` (R161): main, low[0], low[1], high[0], high[1]. -/
def execLspnb (s : State) : Host.Outcome State Fault Refusal :=
  s.command fun s =>
  s.readIndex.andThen fun t0 s =>
  s.readIndex.andThen fun t1 s =>
  s.readIndex.andThen fun t2 s =>
  s.readIndex.andThen fun t3 s =>
  s.readIndex.andThen fun t4 s =>
  .done () (s.setLsp #v[t0, t1, t2, t3, t4])

/-- `LSP_LBR_RECORD`: an 18-bit record of these indices is taken, as `LSPLBR` takes it (R78, R160, log 5). -/
def execLspLbrRecord (main low high : LspIndex) (s : State) : Host.Outcome State Fault Refusal :=
  s.command fun s =>
  (s.skipBits (3 * Config.lspW)).andThen fun _ s => .done () (s.setLsp #v[main, low, high, 0, 0])

/-- `LSP_NB_RECORD`: a 30-bit record of these indices is taken, as `LSPNB` takes it (R79, R161, log 5). -/
def execLspNbRecord (main low0 low1 high0 high1 : LspIndex) (s : State) : Host.Outcome State Fault Refusal :=
  s.command fun s =>
  (s.skipBits (5 * Config.lspW)).andThen fun _ s => .done () (s.setLsp #v[main, low0, low1, high0, high1])

end Sys2Proof.Machine
end

