-- ==== Sys2Proof/Machine/Reserved.lean ====
section
/-! DEFINITION. The reserved opcodes: each faults with cause `ILLEGAL_CMD`, whatever its operand (30_encoding.md R86,
60_exceptions.md R176(a)), and is ignored like any command while `FAULT = 1` (R174). -/

namespace Sys2Proof.Machine

/-- Opcode `0xD` (R86). -/
def execReservedD (s : State) : Host.Outcome State Fault Refusal :=
  s.command fun _ => .raise .illegalCmd

/-- Opcode `0xE` (R86). -/
def execReservedE (s : State) : Host.Outcome State Fault Refusal :=
  s.command fun _ => .raise .illegalCmd

/-- Opcode `0xF` (R86). -/
def execReservedF (s : State) : Host.Outcome State Fault Refusal :=
  s.command fun _ => .raise .illegalCmd

end Sys2Proof.Machine
end

