-- ==== Sys2Proof/Machine/Dispatch.lean ====
section
/-! DEFINITION. One arm per row of opcode_table.json. -/

namespace Sys2Proof.Machine

def exec (i : Instr) (s : State) : Host.Outcome State Fault Refusal :=
  match i with
  | .load n => Sys2Proof.Machine.execLoad n s
  | .remain _ => Sys2Proof.Machine.execRemain s
  | .hasrem n => Sys2Proof.Machine.execHasrem n s
  | .rdbit _ => Sys2Proof.Machine.execRdbit s
  | .rdbits n => Sys2Proof.Machine.execRdbits n s
  | .rdbitss n => Sys2Proof.Machine.execRdbitss n s
  | .trybit _ => Sys2Proof.Machine.execTrybit s
  | .trybits n => Sys2Proof.Machine.execTrybits n s
  | .trybitss n => Sys2Proof.Machine.execTrybitss n s
  | .skip n => Sys2Proof.Machine.execSkip n s
  | .findsub _ => Sys2Proof.Machine.execFindsub s
  | .lsplbr _ => Sys2Proof.Machine.execLsplbr s
  | .lspnb _ => Sys2Proof.Machine.execLspnb s
  | .reservedD _ => Sys2Proof.Machine.execReservedD s
  | .reservedE _ => Sys2Proof.Machine.execReservedE s
  | .reservedF _ => Sys2Proof.Machine.execReservedF s
  | .f1Clear => Sys2Proof.Machine.execF1Clear s
  | .f1Set => Sys2Proof.Machine.execF1Set s
  | .f2Clear => Sys2Proof.Machine.execF2Clear s
  | .f2Set => Sys2Proof.Machine.execF2Set s
  | .f3Clear => Sys2Proof.Machine.execF3Clear s
  | .f3Set => Sys2Proof.Machine.execF3Set s
  | .wbtag0 => Sys2Proof.Machine.execWbtag0 s
  | .wbtag1 => Sys2Proof.Machine.execWbtag1 s
  | .wbtag2 => Sys2Proof.Machine.execWbtag2 s
  | .wbtag3 => Sys2Proof.Machine.execWbtag3 s
  | .wbtag4 => Sys2Proof.Machine.execWbtag4 s
  | .wbtag5 => Sys2Proof.Machine.execWbtag5 s
  | .wbtag6 => Sys2Proof.Machine.execWbtag6 s
  | .wbtag7 => Sys2Proof.Machine.execWbtag7 s
  | .code0 => Sys2Proof.Machine.execCode0 s
  | .code1 => Sys2Proof.Machine.execCode1 s
  | .code2 => Sys2Proof.Machine.execCode2 s
  | .code3 => Sys2Proof.Machine.execCode3 s
  | .code4 => Sys2Proof.Machine.execCode4 s
  | .code5 => Sys2Proof.Machine.execCode5 s
  | .code6 => Sys2Proof.Machine.execCode6 s
  | .code7 => Sys2Proof.Machine.execCode7 s
  | .code8 => Sys2Proof.Machine.execCode8 s
  | .code9 => Sys2Proof.Machine.execCode9 s
  | .code10 => Sys2Proof.Machine.execCode10 s
  | .code11 => Sys2Proof.Machine.execCode11 s
  | .code12 => Sys2Proof.Machine.execCode12 s
  | .code13 => Sys2Proof.Machine.execCode13 s
  | .code14 => Sys2Proof.Machine.execCode14 s
  | .code15 => Sys2Proof.Machine.execCode15 s
  | .lspLbrRecord main low high => Sys2Proof.Machine.execLspLbrRecord main low high s
  | .lspNbRecord main low0 low1 high0 high1 => Sys2Proof.Machine.execLspNbRecord main low0 low1 high0 high1 s

end Sys2Proof.Machine
end

