-- ==== Sys2Proof/Machine/Fetch.lean ====
section
/-! DEFINITION. Taking one field of the bitstream at the cursor: fetch its bits, decode them, run the element (log 4); and
the bytes by which a field is laid out at the head of a buffer. -/

namespace Sys2Proof.Machine

/-- The fault of R141, R160 or R161 when the stream ends before a field: where the algorithm names a check it is
`NOT_ENOUGH_BITS` (steps 1, 2b and 3), where it reads unchecked it is `UNDERRUN` (R143, R145, R171). -/
def shortCause (k : FieldKind) : Cause :=
  match k with
  | .flag1 => .notEnoughBits
  | .flag2 => .notEnoughBits
  | .flag3 => .underrun
  | .tag => .underrun
  | .code => .notEnoughBits
  | .lspLbr => .underrun
  | .lspNb => .underrun

/-- The value of the field at the cursor, the cursor unmoved; a fault where the stream ends before it. -/
def State.peekField (s : State) (k : FieldKind) : Proc Nat :=
  if s.hasRemaining k.width then (s.readLoop k.width 0).andThen fun v _ => .done v s
  else .raise (shortCause k)

/-- One field at the cursor: fetched, decoded and run; ignored while `FAULT = 1` (R174). -/
def runField (k : FieldKind) (s : State) : Host.Outcome State Fault Refusal :=
  if s.fault then .next s
  else
    match s.peekField k with
    | .raise c => .next (s.takeFault c)
    | .stop f => .fault f
    | .done v t =>
      match decodeField k v with
      | .ok i => exec i t
      | .error e => .refused (.undecodable e)

/-- The `count` bytes of a number, most significant byte first. -/
def bytesOfNat (count v : Nat) : List Byte :=
  match count with
  | 0 => []
  | count + 1 => BitVec.ofNat _ (v >>> (Config.byteW * count)) :: bytesOfNat count v

/-- A buffer of eight bytes that begins with the field value `w`, every bit after it 0 (R52, R53). -/
def fieldBytes (k : FieldKind) (w : Nat) : List Byte :=
  bytesOfNat 8 (w <<< (64 - k.width))

end Sys2Proof.Machine
end

