-- ==== Sys2Proof/Machine/Step.lean ====
section
/-! DEFINITION. One step: what stands first at the port is taken and performed whole (00_scope.md R5, R6; 20_memory.md
R59). -/

namespace Sys2Proof.Machine

/-- One step. With nothing issued nothing changes: "nothing but a command changes the block's state" (R177, R209). -/
def step (s : State) : Host.Outcome State Fault Refusal :=
  match s.port with
  | [] => .next s
  | .reset :: rest => .next (State.resetBlock { s with port := rest })
  | .command w bytes :: rest =>
    match decode s.xlen .cmd w with
    | .ok i => exec i { s with port := rest, din := bytes }
    | .error e => .refused (.undecodable e)
  | .field k :: rest => runField k { s with port := rest }

/-- `s` with the instruction of a table row issued first: a command word at the head of the port (with no bytes beside it),
or a field's request there, with the field's bits at the head of a buffer of eight bytes and the cursor on them (log 3,
log 6). The table's command words are those of `XLEN = 32`, which `State.reset` has. -/
def State.withFetchWord (s : State) (nbits w : Nat) : State :=
  match tableFormat nbits with
  | .cmd => { s with port := .command w [] :: s.port }
  | .field k =>
    { s with port := .field k :: s.port, buf := Memory.ofBytes 8 (fieldBytes k w), len := 8, pos := 0 }

end Sys2Proof.Machine
end

