-- ==== Sys2Proof/Machine/Assembler.lean ====
section
/-! DEFINITION. The assembler text of 30_encoding.md R88: one command a line, from characters to the request a host issues to a
block of a given `XLEN`.
The step never uses it. A line that is no command is rejected by name. Text is a list of characters, so that Lean's kernel
can run the assembler; a mnemonic is in capitals, and spaces and commas only group (R8). -/

namespace Sys2Proof.Machine

/-- Why a line is no command. -/
inductive AsmError where
  /-- The first word is no mnemonic of R85. -/
  | unknownMnemonic
  /-- What follows the mnemonic is not the operand R88 gives it. -/
  | badOperand
  /-- The operand, or `LOAD`'s byte count, is no value of XLEN bits (R84). -/
  | tooLarge
  deriving DecidableEq, Repr

/-- What R88 lets follow a mnemonic. -/
inductive AsmOperand where
  /-- A buffer, in hex bytes or as a bit string. -/
  | buffer
  /-- A number: the commands whose operand R85 does not mark "ignored". -/
  | number
  /-- Nothing: `N = 0` is emitted (R87). -/
  | nothing
  deriving DecidableEq, Repr

/-- The mnemonics of R85, each with its opcode and its operand. -/
def asmTable : List (List Char × BitVec 4 × AsmOperand) :=
  [(['L', 'O', 'A', 'D'], 0x0, .buffer),
   (['R', 'E', 'M', 'A', 'I', 'N'], 0x1, .nothing),
   (['H', 'A', 'S', 'R', 'E', 'M'], 0x2, .number),
   (['R', 'D', 'B', 'I', 'T'], 0x3, .nothing),
   (['R', 'D', 'B', 'I', 'T', 'S'], 0x4, .number),
   (['R', 'D', 'B', 'I', 'T', 'S', 'S'], 0x5, .number),
   (['T', 'R', 'Y', 'B', 'I', 'T'], 0x6, .nothing),
   (['T', 'R', 'Y', 'B', 'I', 'T', 'S'], 0x7, .number),
   (['T', 'R', 'Y', 'B', 'I', 'T', 'S', 'S'], 0x8, .number),
   (['S', 'K', 'I', 'P'], 0x9, .number),
   (['F', 'I', 'N', 'D', 'S', 'U', 'B'], 0xA, .nothing),
   (['L', 'S', 'P', 'L', 'B', 'R'], 0xB, .nothing),
   (['L', 'S', 'P', 'N', 'B'], 0xC, .nothing)]

/-- The double quote around a bit string. -/
def asmQuote : Char := Char.ofNat 34

/-- A character that only separates or groups. -/
def asmSpace (c : Char) : Bool := c == ' ' || c == ',' || c == '\t'

/-- Nothing but separators. -/
def asmBlank (cs : List Char) : Bool := cs.all asmSpace

/-- The value of a decimal or hexadecimal digit. -/
def digitValue (c : Char) : Option Nat :=
  if 48 ≤ c.toNat ∧ c.toNat ≤ 57 then some (c.toNat - 48)
  else if 65 ≤ c.toNat ∧ c.toNat ≤ 70 then some (c.toNat - 55)
  else if 97 ≤ c.toNat ∧ c.toNat ≤ 102 then some (c.toNat - 87)
  else none

/-- Digits in a base onto the value `acc`, up to nothing but separators. -/
def asmDigits (base acc : Nat) (cs : List Char) : Option Nat :=
  match cs with
  | [] => some acc
  | c :: rest =>
    match digitValue c with
    | some d => if d < base then asmDigits base (base * acc + d) rest else none
    | none => if asmBlank (c :: rest) then some acc else none

/-- One number, decimal or `0x` hexadecimal. -/
def asmNumber (cs : List Char) : Option Nat :=
  match cs with
  | '0' :: 'x' :: c :: rest => if (digitValue c).isSome then asmDigits 16 0 (c :: rest) else none
  | c :: rest => if (digitValue c).isSome then asmDigits 10 0 (c :: rest) else none
  | [] => none

/-- The hex bytes of a buffer, from after its opening bracket. -/
def asmBytes (cs : List Char) : Option (List Byte) :=
  match cs with
  | [] => none
  | [c] => if c == ']' then some [] else none
  | hi :: lo :: rest =>
    if hi == ']' then if asmBlank (lo :: rest) then some [] else none
    else if asmSpace hi then asmBytes (lo :: rest)
    else
      match digitValue hi, digitValue lo with
      | some h, some l => (asmBytes rest).map fun bs => BitVec.ofNat _ (16 * h + l) :: bs
      | _, _ => none

/-- A bit string, from after its opening quote. -/
def asmBits (cs : List Char) : Option (List Bool) :=
  match cs with
  | [] => none
  | c :: rest =>
    if c == asmQuote then if asmBlank rest then some [] else none
    else if asmSpace c then asmBits rest
    else if c == '0' then (asmBits rest).map fun bs => false :: bs
    else if c == '1' then (asmBits rest).map fun bs => true :: bs
    else none

/-- A byte of eight bits, the first one most significant (R52). -/
def byteOfBits (b7 b6 b5 b4 b3 b2 b1 b0 : Bool) : Byte :=
  BitVec.ofNat _ (128 * b7.toNat + 64 * b6.toNat + 32 * b5.toNat + 16 * b4.toNat + 8 * b3.toNat + 4 * b2.toNat +
    2 * b1.toNat + b0.toNat)

/-- A bit string in whole bytes, padded with zero bits. -/
def packBits (bits : List Bool) : List Byte :=
  match bits with
  | [] => []
  | b7 :: b6 :: b5 :: b4 :: b3 :: b2 :: b1 :: b0 :: rest => byteOfBits b7 b6 b5 b4 b3 b2 b1 b0 :: packBits rest
  | short =>
    let bit := fun i => short.getD i false
    [byteOfBits (bit 0) (bit 1) (bit 2) (bit 3) (bit 4) (bit 5) (bit 6) (bit 7)]

/-- `LOAD`'s bytes, in either form. -/
def asmBuffer (cs : List Char) : Option (List Byte) :=
  match cs with
  | [] => none
  | c :: rest =>
    if c == '[' then asmBytes rest
    else if c == asmQuote then (asmBits rest).map packBits
    else none

/-- The command of an opcode and an operand that fits it. -/
def asmEmit (xlen : Nat) (op : BitVec 4) (n : Nat) (bytes : List Byte) : Except AsmError Request :=
  if n < 2 ^ xlen then .ok (.command (commandNumeral xlen op n) bytes) else .error .tooLarge

/-- The command of a mnemonic's row and the text after the mnemonic. -/
def asmCommand (xlen : Nat) (op : BitVec 4) (kind : AsmOperand) (cs : List Char) : Except AsmError Request :=
  match kind with
  | .buffer =>
    match asmBuffer cs with
    | some bytes => asmEmit xlen op bytes.length bytes
    | none => .error .badOperand
  | .number =>
    match asmNumber cs with
    | some n => asmEmit xlen op n []
    | none => .error .badOperand
  | .nothing => if asmBlank cs then asmEmit xlen op 0 [] else .error .badOperand

/-- One line: its command, or nothing where the line is blank or a comment; `#` starts a comment. -/
def assembleLine (xlen : Nat) (line : List Char) : Except AsmError (Option Request) :=
  let text := (line.takeWhile fun c => c != '#').dropWhile asmSpace
  if text.isEmpty then .ok none
  else
    let word := text.takeWhile fun c => !asmSpace c
    match asmTable.find? fun row => row.1 == word with
    | some (_, op, kind) => (asmCommand xlen op kind ((text.drop word.length).dropWhile asmSpace)).map some
    | none => .error .unknownMnemonic

/-- The lines of a program in their order. -/
def assemble (xlen : Nat) (lines : List (List Char)) : Except AsmError (List Request) :=
  match lines with
  | [] => .ok []
  | line :: rest =>
    match assembleLine xlen line, assemble xlen rest with
    | .ok none, .ok rs => .ok rs
    | .ok (some r), .ok rs => .ok (r :: rs)
    | .error e, _ => .error e
    | .ok _, .error e => .error e

end Sys2Proof.Machine
end

