-- ==== Sys2Proof/Safety.lean ====
section
/-! DEFINITION. The terms claims are stated in: the value of a field of the stream, what a fault leaves, what the host can
see, a good end, the invariant of the block, and the closed form of the frame header. None of it is used by the machine. -/

namespace Sys2Proof.Machine

/-- Stream bit `k` as a number; 0 where there is no such bit (R51). -/
def State.bitAt (s : State) (k : Nat) : Nat :=
  match s.streamBit k with
  | .ok b => b.toNat
  | .error _ => 0

/-- `Field(p, n)`, the sum over `i` in `0..n` of `StreamBit(p + i) * 2^(n-1-i)` (R53). -/
def State.fieldValue (s : State) (p n : Nat) : Nat :=
  ∑ i ∈ Finset.range n, s.bitAt (p + i) * 2 ^ (n - 1 - i)

/-- `signed32(p)`, the integer a 32-bit pattern stands for (R9). -/
def signed32 (p : Result) : Int := if p.toNat < 2 ^ 31 then p.toNat else (p.toNat : Int) - 2 ^ 32

/-- An outcome takes fault `c` from `s`: the latch is set, `BUF` and `LEN` are unchanged, and nothing is said of the
registers R173 leaves unspecified. What is queued, the bytes supplied and the mark of R209 are the model's own. -/
def TakesFault (s : State) (c : Cause) (o : Host.Outcome State Fault Refusal) : Prop :=
  ∃ t, o = .next t ∧ t.fault = true ∧ t.cause = c.code ∧ t.buf = s.buf ∧ t.len = s.len ∧
    t.port = s.port ∧ t.din = s.din ∧ t.everFaulted = true

/-- Two next states that no host can tell apart by what is specified: the same buffer and the same fault, and the same state
where there is none. Of the registers R173 leaves unspecified after a fault nothing is said. -/
def SameOutcome (o o' : Host.Outcome State Fault Refusal) : Prop :=
  ∃ t u, o = .next t ∧ o' = .next u ∧ t.buf = u.buf ∧ t.len = u.len ∧ t.fault = u.fault ∧ t.cause = u.cause ∧
    t.port = u.port ∧ t.din = u.din ∧ t.everFaulted = u.everFaulted ∧ (t.fault = false → t = u)

/-- Instructions one after another, stopping where one stops. -/
def execAll (is : List Instr) (s : State) : Host.Outcome State Fault Refusal :=
  match is with
  | [] => .next s
  | i :: rest =>
    match exec i s with
    | .next t => execAll rest t
    | .fault f => .fault f
    | .refused r => .refused r

/-- Fields taken one after another at the cursor. -/
def runFields (ks : List FieldKind) (s : State) : Host.Outcome State Fault Refusal :=
  match ks with
  | [] => .next s
  | k :: rest =>
    match runField k s with
    | .next t => runFields rest t
    | .fault f => .fault f
    | .refused r => .refused r

/-! ### The host's side (R209) -/

/-- What the host can read between commands (R209). -/
structure HostView where
  /-- `RES` -/
  res : Result
  /-- `VLD` -/
  vld : Bool
  /-- `CNT` -/
  cnt : Nat
  /-- `FLG` -/
  flg : Bool
  /-- `SUB` -/
  sub : Code
  /-- `LSP[0..4]` -/
  lsp : Vector LspIndex 5
  /-- `FAULT` -/
  fault : Bool
  /-- `CAUSE` -/
  cause : BitVec 4
  deriving DecidableEq, Repr

/-- The registers the host reads; reading changes nothing (R209). -/
def State.hostView (s : State) : HostView :=
  { res := s.res, vld := s.vld, cnt := s.cnt, flg := s.flg, sub := s.sub, lsp := s.lsp, fault := s.fault, cause := s.cause }

/-- A request the host can make: anything but the model's own field request (R85, R200, R209; log 4). -/
def Request.ofHost : Request → Bool
  | .reset => true
  | .command _ _ => true
  | .field _ => false

/-- A request is one a block of width `xlen` can be given: a command word has XLEN+4 bits (R84). -/
def Request.fits (xlen : Nat) : Request → Bool
  | .reset => true
  | .command w _ => decide (w < 2 ^ (xlen + 4))
  | .field _ => true

/-- Everything queued fits the block's own width. -/
def State.portFits (s : State) : Bool := s.port.all (Request.fits s.xlen)

/-- Everything queued is the host's. -/
def State.hostDriven (s : State) : Bool := s.port.all Request.ofHost

/-- A good end of a parse, `FAULT = 0` (R209): within one parse the latch is sticky, so this says that the parse never
faulted. -/
def State.goodEnd (s : State) : Bool := !s.fault

/-- A good end of a whole run: no parse of it faulted (R209). -/
def State.neverFaulted (s : State) : Bool := !s.everFaulted

/-- The failure classes of R170. -/
inductive FaultClass where
  /-- Caused by the caller. -/
  | contractViolation
  /-- Caused by the data. -/
  | streamCorruption
  /-- Recognised and not decoded. -/
  | unimplementedOutcome
  deriving DecidableEq, Repr

/-- The class of a cause (R170, R171). -/
def Cause.faultClass : Cause → FaultClass
  | .underrun => .contractViolation
  | .width => .contractViolation
  | .notEnoughBits => .contractViolation
  | .tooManyWbLayers => .streamCorruption
  | .reservedSubmode => .streamCorruption
  | .nhUserInband => .unimplementedOutcome
  | .nhCodecInband => .unimplementedOutcome
  | .nhTerminator => .unimplementedOutcome
  | .signedZeroWidth => .contractViolation
  | .illegalCmd => .contractViolation
  | .countOverflow => .contractViolation

/-- The submodes of R75, by this spec's names (D19). -/
inductive Submode where
  /-- Code 0, a silence or no-data frame. -/
  | null
  /-- Code 1, the document's `Nb2150`. -/
  | sm1
  /-- Code 2. -/
  | sm2
  /-- Code 3. -/
  | sm3
  /-- Code 4. -/
  | sm4
  /-- Code 5. -/
  | sm5
  /-- Code 6. -/
  | sm6
  /-- Code 7. -/
  | sm7
  /-- Code 8. -/
  | sm8
  deriving DecidableEq, Repr

/-- The submode a code in `SUB` names (R75); none for a code that is never written there (R31). -/
def Submode.ofCode (c : Code) : Option Submode :=
  match c.toNat with
  | 0 => some .null
  | 1 => some .sm1
  | 2 => some .sm2
  | 3 => some .sm3
  | 4 => some .sm4
  | 5 => some .sm5
  | 6 => some .sm6
  | 7 => some .sm7
  | 8 => some .sm8
  | _ => none

/-- The LSP record shapes (R78, R79); which submode uses which is in no source (R163). -/
inductive QuantizedLsp where
  /-- Three indices (R78). -/
  | lbr (main low high : LspIndex)
  /-- Five indices (R79). -/
  | nb (main low0 low1 high0 high1 : LspIndex)
  deriving DecidableEq, Repr

/-! ### The invariant -/

/-- What every step keeps: `LEN`, `POS`, `CNT` and every queued command word in their widths (R20, R84); the buffer's form (R22, R50) and its bytes below `LEN`; while `FAULT = 0`, the cursor within the
buffer (R24, R25), a submode code `SUB` can hold (R31), `RES = 0` beside `VLD = 0` (R28, R38) and `CAUSE = 0` (R34); while
`FAULT = 1`, a cause of R171 and the mark of R209. The registers R173 leaves unspecified are not constrained. -/
structure State.Inv (s : State) : Prop where
  lenFits : s.len < 2 ^ s.xlen
  posFits : s.pos < 2 ^ (s.xlen + 3)
  cntFits : s.cnt < 2 ^ s.xlen
  portFits : s.portFits = true
  bufWf : Memory.wf s.buf = true
  bufBelowLen : ∀ c ∈ s.buf, c.1 < s.len
  posInBuffer : s.fault = false → s.pos ≤ s.bits
  subLegal : s.fault = false → s.sub.toNat ≤ 8
  emptyResult : s.fault = false → s.vld = false → s.res = 0
  causeClear : s.fault = false → s.cause = 0
  causeLegal : s.fault = true → 1 ≤ s.cause.toNat ∧ s.cause.toNat ≤ 11
  faultMarked : s.fault = true → s.everFaulted = true

/-! ### The frame header in closed form -/

/-- What a selector at bit address `q` comes to (R75): the bit address after it and its code, or a cause. -/
def State.selectorAt (s : State) (q : Nat) : Except Cause (Nat × Nat) :=
  let c := s.fieldValue q 4
  if c ≤ 8 then .ok (q + 4, c)
  else if c ≤ 12 then .error .reservedSubmode
  else if c = 13 then .error .nhUserInband
  else if c = 14 then .error .nhCodecInband
  else .error .nhTerminator

/-- The skip length of the tag at bit address `q` (R71, R74). -/
def State.skipAt (s : State) (table : Tag → Nat) (q : Nat) : Nat :=
  table (BitVec.ofNat _ (s.fieldValue q 3))

/-- The outcome of a frame header at the cursor by the field addresses of R71 and the fault table of R143, with no cursor
moving: rows 1 to 9 in their order, `r0` the bits remaining at entry. -/
def State.headerOutcome (s : State) (table : Tag → Nat) : Except Cause (Nat × Nat) :=
  let p := s.pos
  let r0 := s.remaining
  let s1 := s.skipAt table (p + 1)
  let s2 := s.skipAt table (p + 5 + s1)
  if r0 < 5 then .error .notEnoughBits
  else if s.bitAt p = 0 then s.selectorAt (p + 1)
  else if r0 - 4 < s1 then .error .underrun
  else if r0 - 4 - s1 < 5 then .error .notEnoughBits
  else if s.bitAt (p + 4 + s1) = 0 then s.selectorAt (p + 5 + s1)
  else if r0 - 8 - s1 < s2 then .error .underrun
  else if s2 = r0 - 8 - s1 then .error .underrun
  else if s.bitAt (p + 8 + s1 + s2) = 1 then .error .tooManyWbLayers
  else if r0 - 9 - s1 - s2 < 4 then .error .notEnoughBits
  else s.selectorAt (p + 9 + s1 + s2)

/-- The stream bits a frame header is made of by R71, as far as the header goes: its flags, its tags and its selector, and
no bit of a layer's payload (R73). -/
def State.headerReads (s : State) (table : Tag → Nat) : List Nat :=
  let p := s.pos
  let s1 := s.skipAt table (p + 1)
  let s2 := s.skipAt table (p + 5 + s1)
  if s.bitAt p = 0 then [p, p + 1, p + 2, p + 3, p + 4]
  else if s.bitAt (p + 4 + s1) = 0 then
    [p, p + 1, p + 2, p + 3, p + 4 + s1, p + 5 + s1, p + 6 + s1, p + 7 + s1, p + 8 + s1]
  else
    [p, p + 1, p + 2, p + 3, p + 4 + s1, p + 5 + s1, p + 6 + s1, p + 7 + s1, p + 8 + s1 + s2,
      p + 9 + s1 + s2, p + 10 + s1 + s2, p + 11 + s1 + s2, p + 12 + s1 + s2]

end Sys2Proof.Machine
end

