-- ==== Sys2Proof/Certificates/Slice0/Obligations.lean ====
section
/-! DEFINITION. The statements for the provers. Where one rests on a decision of 92_eei_decisions.md (the spec's own choice,
not the document's) or on an entry of the model's log, its docstring names it. -/

open Sys2Proof Sys2Proof.Machine

/-! ### Reset and the invariant -/

/-- R37, section 8 of 10_state.md: what reset leaves (the spec's decision D21), the view of the cursor and the count, for
every `XLEN`; the block of the model's reset is the one of the reference width (log 1). -/
def Obligations.ResetState : Prop :=
  State.reset = State.resetOf Config.refXlen ∧ ∀ x : Nat,
  (State.resetOf x).xlen = x ∧
  (State.resetOf x).buf = [] ∧ (State.resetOf x).len = 0 ∧ (State.resetOf x).pos = 0 ∧
  (State.resetOf x).nxt = 0 ∧ (State.resetOf x).avail = 0 ∧ (State.resetOf x).remaining = 0 ∧
  (State.resetOf x).res = 0 ∧ (State.resetOf x).vld = false ∧ (State.resetOf x).cnt = 0 ∧ (State.resetOf x).flg = false ∧
  (State.resetOf x).sub = 0 ∧ (∀ i : Fin 5, (State.resetOf x).lsp[i] = 0) ∧ (State.resetOf x).fault = false ∧ (State.resetOf x).cause = 0

/-- The invariant holds at reset, for every `XLEN`. -/
def Obligations.ResetMeetsInvariant : Prop := ∀ x : Nat, (State.resetOf x).Inv

/-- Every step keeps the invariant, from every state that meets it (R20 widths, R22, R24, R25, R28, R31, R34; the form of the cells is
the model's, log 8, and the mark is the model's, log 11). -/
def Obligations.StepKeepsInvariant : Prop :=
  ∀ s t : State, s.Inv → step s = .next t → t.Inv

/-- R21, R37: `XLEN` is configuration. No instruction, no step and no reset changes it. -/
def Obligations.XlenIsConstant : Prop :=
  (∀ (i : Instr) (s t : State), exec i s = .next t → t.xlen = s.xlen) ∧
  ∀ s t : State, step s = .next t → t.xlen = s.xlen

/-! ### Encodings -/

/-- Decoding an encoded instruction in its own format gives it back: for every `XLEN`, every operand at every value it has
there. -/
def Obligations.DecodeOfEncode : Prop :=
  ∀ (x : Nat) (i : Instr), i.wf x = true → decode x i.format (encode x i) = .ok i

/-- What decodes is well-formed and was encoded from it: no bit of a command word or of a field is dropped. -/
def Obligations.EncodeOfDecode : Prop :=
  ∀ (x : Nat) (f : Format) (v : Nat) (i : Instr), decode x f v = .ok i → i.format = f ∧ i.wf x = true ∧ encode x i = v

/-- A numeral of the format's width decodes, and any other is refused by name. -/
def Obligations.DecodeIsTotalOnItsWidth : Prop :=
  ∀ (x : Nat) (f : Format) (v : Nat),
    if v < 2 ^ f.width x then ∃ i, decode x f v = .ok i else decode x f v = .error .tooWide

/-- The opcode map of R85 with the reserved opcodes of R86 (the spec's decisions D3 and D4), on words `OP ‖ N` of XLEN+4
bits, for every `XLEN`. -/
def Obligations.OpcodeMap : Prop :=
  ∀ x n : Nat, n < 2 ^ x →
    decode x .cmd (0x0 * 2 ^ x + n) = .ok (.load n) ∧ decode x .cmd (0x1 * 2 ^ x + n) = .ok (.remain n) ∧
    decode x .cmd (0x2 * 2 ^ x + n) = .ok (.hasrem n) ∧ decode x .cmd (0x3 * 2 ^ x + n) = .ok (.rdbit n) ∧
    decode x .cmd (0x4 * 2 ^ x + n) = .ok (.rdbits n) ∧ decode x .cmd (0x5 * 2 ^ x + n) = .ok (.rdbitss n) ∧
    decode x .cmd (0x6 * 2 ^ x + n) = .ok (.trybit n) ∧ decode x .cmd (0x7 * 2 ^ x + n) = .ok (.trybits n) ∧
    decode x .cmd (0x8 * 2 ^ x + n) = .ok (.trybitss n) ∧ decode x .cmd (0x9 * 2 ^ x + n) = .ok (.skip n) ∧
    decode x .cmd (0xA * 2 ^ x + n) = .ok (.findsub n) ∧ decode x .cmd (0xB * 2 ^ x + n) = .ok (.lsplbr n) ∧
    decode x .cmd (0xC * 2 ^ x + n) = .ok (.lspnb n) ∧ decode x .cmd (0xD * 2 ^ x + n) = .ok (.reservedD n) ∧
    decode x .cmd (0xE * 2 ^ x + n) = .ok (.reservedE n) ∧ decode x .cmd (0xF * 2 ^ x + n) = .ok (.reservedF n)

/-- A few words of 95_test_vectors.md (at `XLEN = 32`), one of a block of `XLEN = 16`, and a few field values written out bit
by bit. -/
def Obligations.WrittenWordsDecode : Prop :=
  decode 32 .cmd 0x000000005 = .ok (.load 5) ∧ decode 32 .cmd 0x400000016 = .ok (.rdbits 22) ∧
  decode 32 .cmd 0x9FFFFFFFF = .ok (.skip 0xFFFFFFFF) ∧ decode 32 .cmd 0xA12345678 = .ok (.findsub 0x12345678) ∧
  decode 16 .cmd 0x90012 = .ok (.skip 0x12) ∧
  decode 32 (.field .flag1) 0b1 = .ok .f1Set ∧ decode 32 (.field .flag3) 0b0 = .ok .f3Clear ∧
  decode 32 (.field .tag) 0b010 = .ok .wbtag2 ∧ decode 32 (.field .code) 0b1010 = .ok .code10 ∧
  decode 32 (.field .lspLbr) 0b001011000011000100 = .ok (.lspLbrRecord 11 3 4) ∧
  decode 32 (.field .lspNb) 0b111111000000000011111100000000 = .ok (.lspNbRecord 63 0 3 60 0)

/-- R88 with R85, R84 (the spec's decisions D2, D3): a line with a mnemonic that takes a number and that number in decimal
assembles to the word `OP ‖ N`, and a number past XLEN bits is refused by name. -/
def Obligations.AssemblerReadsNumbers : Prop :=
  ∀ (x : Nat) (name : List Char) (op : BitVec 4) (d : Fin 10) (ds : List (Fin 10)),
    (name, op, AsmOperand.number) ∈ asmTable →
    assembleLine x (name ++ ' ' :: (d :: ds).map fun d => Char.ofNat (48 + d.val)) =
      if Nat.ofDigits 10 ((d :: ds).map Fin.val).reverse < 2 ^ x then
        .ok (some (.command (op.toNat * 2 ^ x + Nat.ofDigits 10 ((d :: ds).map Fin.val).reverse) []))
      else .error .tooLarge

/-! ### Steps -/

/-- A command at the head of the port: where its word decodes, the step is `exec` of the decoded instruction, on the state
with the request taken and its bytes at hand; a numeral that is no word of XLEN+4 bits is refused by name (the queue is the
model's, log 3). -/
def Obligations.StepRunsTheCommand : Prop :=
  ∀ (s : State) (w : Nat) (bytes : List Byte) (rest : List Request),
    s.port = .command w bytes :: rest →
    (∀ i, decode s.xlen .cmd w = .ok i → step s = exec i { s with port := rest, din := bytes }) ∧
    (∀ e, decode s.xlen .cmd w = .error e → step s = .refused (.undecodable e))

/-- A field request at the head of the port (the model's own request, log 4): ignored while `FAULT = 1`; a fault where the
stream ends before the field; otherwise the step is `exec` of the element that the bits at the cursor decode to. -/
def Obligations.StepRunsTheField : Prop :=
  ∀ (s : State) (k : FieldKind) (rest : List Request),
    s.port = .field k :: rest →
    (s.fault = true → step s = .next { s with port := rest }) ∧
    (s.fault = false → s.remaining < k.width → TakesFault { s with port := rest } (shortCause k) (step s)) ∧
    (s.fault = false → k.width ≤ s.remaining →
      ∃ i, decodeField k (s.fieldValue s.pos k.width) = .ok i ∧ i.format = .field k ∧
        step s = exec i { s with port := rest })

/-- With nothing issued nothing changes (R177); reset at the port leaves the state of R37 and R200 (how it is asserted is
the model's, log 12). -/
def Obligations.StepIdleAndReset : Prop :=
  (∀ s : State, s.port = [] → step s = .next s) ∧
  (∀ (s : State) (rest : List Request), s.port = .reset :: rest →
    step s = .next { State.resetOf s.xlen with port := rest, fresh := s.fresh })

/-- No instruction stops the model: each answers a next state from every state, so no byte at or beyond `BUF[LEN]` is ever
read (R56) and every command terminates (R209). -/
def Obligations.EveryInstructionAnswersNext : Prop :=
  ∀ (i : Instr) (s : State), ∃ t, exec i s = .next t

/-- No step stops the model, from a state whose queued command words are words of XLEN+4 bits (R84), as the invariant
says. -/
def Obligations.EveryStepAnswersNext : Prop :=
  ∀ s : State, s.portFits = true → ∃ t, step s = .next t

/-! ### Faults -/

/-- R174 (the spec's decision D9): while `FAULT = 1` every instruction but `LOAD` changes nothing. -/
def Obligations.FaultedBlockIgnoresCommands : Prop :=
  ∀ (i : Instr) (s : State), s.fault = true → (∀ n, i ≠ .load n) → exec i s = .next s

/-- R175 (the spec's decision D9): a step that leaves the fault is a `LOAD` or a reset. -/
def Obligations.OnlyLoadOrResetClearsTheFault : Prop :=
  ∀ s t : State, s.fault = true → step s = .next t → t.fault = false →
    (∃ rest, s.port = .reset :: rest) ∨
    (∃ w bytes rest n, s.port = .command w bytes :: rest ∧ decode s.xlen .cmd w = .ok (.load n))

/-- R172, R173 (the spec's decision D9): an instruction that faults is not `LOAD`, `HASREM` or `TRYBIT`, latches a cause of
R171 and leaves `BUF` and `LEN` alone. -/
def Obligations.FaultEntryLatchesACause : Prop :=
  ∀ (i : Instr) (s t : State), s.fault = false → exec i s = .next t → t.fault = true →
    (∀ n, i ≠ .load n ∧ i ≠ .hasrem n ∧ i ≠ .trybit n) ∧ (∃ c : Cause, t.cause = c.code) ∧
    t.buf = s.buf ∧ t.len = s.len ∧ (∀ a, t.memRead a = s.memRead a) ∧ t.everFaulted = true

/-- R209 (the spec's decision D25): the model's mark beside `FAULT` (log 11) is set with it and is cleared by no step but a
reset. -/
def Obligations.FaultMarkSurvivesLoad : Prop :=
  ∀ s t : State, (∀ rest, s.port ≠ .reset :: rest) → step s = .next t →
    (s.everFaulted = true → t.everFaulted = true) ∧
    (s.fault = false → t.fault = true → t.everFaulted = true)

/-- R86 (the spec's decision D4): a reserved opcode faults with `ILLEGAL_CMD` for every operand. -/
def Obligations.ReservedOpcodesFault : Prop :=
  ∀ (n : Nat) (s : State), s.fault = false →
    TakesFault s .illegalCmd (exec (.reservedD n) s) ∧
    TakesFault s .illegalCmd (exec (.reservedE n) s) ∧
    TakesFault s .illegalCmd (exec (.reservedF n) s)

/-! ### The cursor's state -/

/-- R26 with R24's view: the remaining-bit count by undelivered bytes and available bits is `8*LEN - POS`; it fits in XLEN+3
bits and can need them all. -/
def Obligations.RemainingByTheView : Prop :=
  (∀ s : State, s.pos ≤ s.bits →
    s.remaining = 8 * (s.len - s.nxt) + s.avail.toNat ∧
    s.remaining = 8 * s.len - s.pos ∧ (s.len < 2 ^ s.xlen → s.remaining < 2 ^ (s.xlen + 3))) ∧
  ∀ x, 0 < x → ∃ s : State, s.xlen = x ∧ s.len < 2 ^ x ∧ s.pos ≤ s.bits ∧ 2 ^ (x + 2) ≤ s.remaining

/-- R24 (the spec's decision D6): in the view, `POS = 8*NXT - AVAIL`, the cursor is exhausted exactly where `AVAIL = 0`, and
the next stream bit is `CUR[AVAIL-1]`. -/
def Obligations.ViewOfTheCursor : Prop :=
  ∀ s : State, s.pos ≤ s.bits →
    s.pos + s.avail.toNat = 8 * s.nxt ∧
    (s.avail = 0 ↔ s.pos = s.bits) ∧
    (s.pos < s.bits → ∃ v, s.cur = some v ∧ s.bitAt s.pos = (v.getLsbD (s.avail.toNat - 1)).toNat) ∧
    (s.pos = s.bits → s.cur = none)

/-- R25: what holds of the cursor after reset and after every instruction that does not fault. `POS ≤ 8*LEN` holds at reset
and is kept; (a) `AVAIL ≤ 8`; (b) `AVAIL = 0` only when the buffer is exhausted, and `AVAIL = 0` with `NXT = LEN` is
`POS = 8*LEN`; (c) no state has `AVAIL = 0` and `NXT < LEN`, and after the last bit of byte `k` the next byte is there; (d)
`AVAIL = 8` exactly at a byte boundary with a bit left, in particular after `LOAD` of a buffer that is not empty; (e) only
`LOAD` moves the cursor back. -/
def Obligations.CursorInvariants : Prop :=
  (∀ x, (State.resetOf x).pos ≤ (State.resetOf x).bits) ∧
  (∀ (i : Instr) (s t : State), s.pos ≤ s.bits → exec i s = .next t → t.fault = false →
    t.pos ≤ t.bits ∧ ((∀ n, i ≠ .load n) → s.pos ≤ t.pos)) ∧
  (∀ (n : Nat) (s : State), n ≠ 0 → ∃ t, exec (.load n) s = .next t ∧ t.pos ≤ t.bits ∧ t.avail = 8) ∧
  ∀ s : State, s.pos ≤ s.bits →
    s.avail.toNat ≤ 8 ∧
    (s.avail = 0 → s.nxt = s.len) ∧
    (s.avail = 0 ∧ s.nxt = s.len ↔ s.pos = s.bits) ∧
    ¬ (s.avail = 0 ∧ s.nxt < s.len) ∧
    (∀ k, s.pos = 8 * (k + 1) → k + 1 < s.len →
      s.nxt = k + 2 ∧ s.avail = 8 ∧ s.cur = some (Memory.read s.buf (k + 1))) ∧
    (s.avail = 8 ↔ s.pos % 8 = 0 ∧ s.pos < s.bits)

/-- R101, derived in the spec: the saturating form of `HasRemaining` gives the exact answer for every representable `n`. -/
def Obligations.SaturatingFormAgrees : Prop :=
  ∀ (s : State) (n : Nat), n < 2 ^ s.xlen → s.hasRemainingSat n = s.hasRemaining n

/-- R25 (e), R27, R60: an instruction other than `LOAD` leaves the buffer alone, and where it does not fault it moves the
cursor forward or leaves it, never past `8*LEN`. -/
def Obligations.CursorOnlyMovesForward : Prop :=
  ∀ (i : Instr) (s t : State), (∀ n, i ≠ .load n) → exec i s = .next t →
    t.buf = s.buf ∧ t.len = s.len ∧ (∀ a, t.memRead a = s.memRead a) ∧
    (t.fault = false → s.pos ≤ s.bits → s.pos ≤ t.pos ∧ t.pos ≤ t.bits)

/-- R109 with the write columns of R36 (the spec's decisions D7, D9): a command other than `LOAD` that completes writes only
the registers marked for it. -/
def Obligations.CommandsWriteOnlyTheirRegisters : Prop :=
  ∀ (i : Instr) (s t : State), i.format = .cmd → (∀ n, i ≠ .load n) → exec i s = .next t → t.fault = false →
    t.cause = s.cause ∧ t.xlen = s.xlen ∧ t.port = s.port ∧ t.din = s.din ∧ t.fresh = s.fresh ∧ t.everFaulted = s.everFaulted ∧
    (t.pos = s.pos ∨ ∀ n, i ≠ .remain n ∧ i ≠ .hasrem n) ∧
    ((t.res = s.res ∧ t.vld = s.vld) ∨ ∃ n, i = .rdbit n ∨ i = .rdbits n ∨ i = .rdbitss n ∨ i = .trybit n ∨
      i = .trybits n ∨ i = .trybitss n) ∧
    (t.cnt = s.cnt ∨ ∃ n, i = .remain n) ∧ (t.flg = s.flg ∨ ∃ n, i = .hasrem n) ∧
    (t.sub = s.sub ∨ ∃ n, i = .findsub n) ∧ (t.lsp = s.lsp ∨ ∃ n, i = .lsplbr n ∨ i = .lspnb n)

/-- R30, R31, R32, R36: no instruction reads a result register. What the registers held decides neither the buffer nor
whether and why there is a fault; and where there is none, neither where the cursor goes nor what is written: each result
register comes out the same from both runs, or stays in both as it was. -/
def Obligations.ResultRegistersAreReadByNone : Prop :=
  ∀ (i : Instr) (s t r : State), exec i s = .next t →
    ∃ u, exec i { s with res := r.res, vld := r.vld, cnt := r.cnt, flg := r.flg, sub := r.sub, lsp := r.lsp } = .next u ∧
      u.buf = t.buf ∧ u.len = t.len ∧ u.fault = t.fault ∧ u.cause = t.cause ∧
      (t.fault = false → u.pos = t.pos ∧
        (u.res = t.res ∧ u.vld = t.vld ∨ u.res = r.res ∧ u.vld = r.vld ∧ t.res = s.res ∧ t.vld = s.vld) ∧
        (u.cnt = t.cnt ∨ u.cnt = r.cnt ∧ t.cnt = s.cnt) ∧ (u.flg = t.flg ∨ u.flg = r.flg ∧ t.flg = s.flg) ∧
        (u.sub = t.sub ∨ u.sub = r.sub ∧ t.sub = s.sub) ∧ (u.lsp = t.lsp ∨ u.lsp = r.lsp ∧ t.lsp = s.lsp))

/-! ### The cursor commands -/

/-- R110 (the spec's decisions D21, D22; the bytes are `State.din`, log 7): `LOAD` runs whatever `FAULT` is, and binds the
buffer, rewinds the cursor and clears every result register and the fault. -/
def Obligations.LoadBindsTheBuffer : Prop :=
  ∀ (n : Nat) (s : State), ∃ t, exec (.load n) s = .next t ∧
    t = { State.resetOf s.xlen with
      buf := t.buf, len := n, port := s.port, din := s.din, fresh := s.fresh, everFaulted := s.everFaulted } ∧
    Memory.wf t.buf = true ∧ (∀ a, a < n → t.memRead a = .ok (s.din.getD a 0)) ∧
    t.remaining = 8 * n ∧
    (n ≠ 0 → t.nxt = 1 ∧ t.avail = 8 ∧ t.cur = some (s.din.getD 0 0)) ∧
    (n = 0 → t.nxt = 0 ∧ t.avail = 0)

/-- R111 (the spec's decision D17): the exact count, or `COUNT_OVERFLOW` where it does not fit. -/
def Obligations.RemainCounts : Prop :=
  ∀ (n : Nat) (s : State), s.fault = false →
    if s.remaining < 2 ^ s.xlen then
      ∃ t, exec (.remain n) s = .next t ∧ t.cnt = s.remaining ∧ t = { s with cnt := t.cnt }
    else TakesFault s .countOverflow (exec (.remain n) s)

/-- R112: `HASREM` is opcode `0x2`, answers the threshold question for any operand, and moves nothing else. -/
def Obligations.HasremAnswers : Prop :=
  (∀ x n : Nat, n < 2 ^ x → decode x .cmd (0x2 * 2 ^ x + n) = .ok (.hasrem n)) ∧
  ∀ (n : Nat) (s : State), s.fault = false →
    ∃ t, exec (.hasrem n) s = .next t ∧ (t.flg = true ↔ n ≤ s.remaining) ∧ t = { s with flg := t.flg }

/-- R113: `RDBIT` is opcode `0x3`, delivers the bit at the cursor and moves by one; with no bit left it faults. -/
def Obligations.RdbitReadsABit : Prop :=
  (∀ x n : Nat, n < 2 ^ x → decode x .cmd (0x3 * 2 ^ x + n) = .ok (.rdbit n)) ∧
  ∀ (n : Nat) (s : State), s.fault = false →
    if 1 ≤ s.remaining then
      ∃ t, exec (.rdbit n) s = .next t ∧ t.res.toNat = s.bitAt s.pos ∧ t.vld = true ∧
        t.pos = s.pos + 1 ∧ t.remaining = s.remaining - 1 ∧
        t = { s with pos := t.pos, res := t.res, vld := t.vld }
    else TakesFault s .underrun (exec (.rdbit n) s)

/-- R114: `RDBITS n` is opcode `0x4`, delivers the field zero-extended and moves by `n`; `WIDTH` first, then `UNDERRUN`. -/
def Obligations.RdbitsReadsAField : Prop :=
  (∀ x n : Nat, n < 2 ^ x → decode x .cmd (0x4 * 2 ^ x + n) = .ok (.rdbits n)) ∧
  ∀ (n : Nat) (s : State), s.fault = false →
    if 32 < n then TakesFault s .width (exec (.rdbits n) s)
    else if s.remaining < n then TakesFault s .underrun (exec (.rdbits n) s)
    else
      ∃ t, exec (.rdbits n) s = .next t ∧ t.res.toNat = s.fieldValue s.pos n ∧ t.vld = true ∧
        t.pos = s.pos + n ∧ t.remaining = s.remaining - n ∧
        t = { s with pos := t.pos, res := t.res, vld := t.vld }

/-- R115 with R82: `RDBITSS n` is opcode `0x5`, delivers the two's-complement value, `u - 2^n` where the top bit read is 1 and `u` where it is
0; `WIDTH`, then `SIGNED_ZERO_WIDTH`, then `UNDERRUN`. -/
def Obligations.RdbitssReadsASignedField : Prop :=
  (∀ x n : Nat, n < 2 ^ x → decode x .cmd (0x5 * 2 ^ x + n) = .ok (.rdbitss n)) ∧
  ∀ (n : Nat) (s : State), s.fault = false →
    if 32 < n then TakesFault s .width (exec (.rdbitss n) s)
    else if n = 0 then TakesFault s .signedZeroWidth (exec (.rdbitss n) s)
    else if s.remaining < n then TakesFault s .underrun (exec (.rdbitss n) s)
    else
      ∃ t, exec (.rdbitss n) s = .next t ∧
        signed32 t.res = (s.fieldValue s.pos n : Int) - (if s.bitAt s.pos = 1 then 2 ^ n else 0) ∧
        t.vld = true ∧ t.pos = s.pos + n ∧ t.remaining = s.remaining - n ∧
        t = { s with pos := t.pos, res := t.res, vld := t.vld }

/-- R116 (the spec's decision D8): `TRYBIT` delivers the bit or the empty result, and never faults. -/
def Obligations.TrybitProbes : Prop :=
  ∀ (n : Nat) (s : State), s.fault = false →
    if 1 ≤ s.remaining then
      ∃ t, exec (.trybit n) s = .next t ∧ t.res.toNat = s.bitAt s.pos ∧ t.vld = true ∧
        t.pos = s.pos + 1 ∧ t = { s with pos := t.pos, res := t.res, vld := t.vld }
    else exec (.trybit n) s = .next { s with res := 0, vld := false }

/-- R117 (the spec's decisions D8, D11): `TRYBITS n` delivers the field or the empty result; `WIDTH` is its only fault. -/
def Obligations.TrybitsProbes : Prop :=
  ∀ (n : Nat) (s : State), s.fault = false →
    if 32 < n then TakesFault s .width (exec (.trybits n) s)
    else if s.remaining < n then exec (.trybits n) s = .next { s with res := 0, vld := false }
    else
      ∃ t, exec (.trybits n) s = .next t ∧ t.res.toNat = s.fieldValue s.pos n ∧ t.vld = true ∧
        t.pos = s.pos + n ∧ t = { s with pos := t.pos, res := t.res, vld := t.vld }

/-- R118 (the spec's decisions D8, D11, D13): `TRYBITSS n` delivers the signed field or the empty result. -/
def Obligations.TrybitssProbes : Prop :=
  ∀ (n : Nat) (s : State), s.fault = false →
    if 32 < n then TakesFault s .width (exec (.trybitss n) s)
    else if n = 0 then TakesFault s .signedZeroWidth (exec (.trybitss n) s)
    else if s.remaining < n then exec (.trybitss n) s = .next { s with res := 0, vld := false }
    else
      ∃ t, exec (.trybitss n) s = .next t ∧
        signed32 t.res = (s.fieldValue s.pos n : Int) - (if s.bitAt s.pos = 1 then 2 ^ n else 0) ∧
        t.vld = true ∧ t.pos = s.pos + n ∧
        t = { s with pos := t.pos, res := t.res, vld := t.vld }

/-- R119 with R106: `SKIP n` is opcode `0x9`, moves by `n` within what remains, to the end included, and into the view R106 gives; past what
remains it faults. -/
def Obligations.SkipMovesTheCursor : Prop :=
  (∀ x n : Nat, n < 2 ^ x → decode x .cmd (0x9 * 2 ^ x + n) = .ok (.skip n)) ∧
  ∀ (n : Nat) (s : State), s.fault = false →
    if s.remaining < n then TakesFault s .underrun (exec (.skip n) s)
    else
      ∃ t, exec (.skip n) s = .next t ∧ t.pos = s.pos + n ∧
        t.remaining = s.remaining - n ∧ t = { s with pos := t.pos } ∧
        (t.pos < s.bits → t.nxt = t.pos / 8 + 1 ∧ t.avail.toNat = 8 - t.pos % 8 ∧
          t.cur = some (Memory.read s.buf (t.pos / 8))) ∧
        (t.pos = s.bits → t.nxt = s.len ∧ t.avail = 0)

/-- R107 (e): skipping and then reading gives what reading and discarding and then reading gives. The discarded reads are
any whose widths sum to the count skipped. -/
def Obligations.SkipEqualsReadAndDiscard : Prop :=
  ∀ (s : State) (ks : List Nat) (m : Nat), s.fault = false → (∀ k ∈ ks, k ≤ 32) → m ≤ 32 →
    ks.sum + m ≤ s.remaining →
    execAll (ks.map Instr.rdbits ++ [.rdbits m]) s =
      execAll [.skip ks.sum, .rdbits m] s

/-- R107 (f), derived in the spec: two reads of widths `a` and `b` give the high `a` and the low `b` bits of one read of
width `a + b`, and leave the cursor where it does. -/
def Obligations.ReadsSplit : Prop :=
  ∀ (s : State) (a b : Nat), s.fault = false → a + b ≤ 32 → a + b ≤ s.remaining →
    ∃ t u v, exec (.rdbits a) s = .next t ∧ exec (.rdbits b) t = .next u ∧
      exec (.rdbits (a + b)) s = .next v ∧
      v.res.toNat = t.res.toNat * 2 ^ b + u.res.toNat ∧ u.pos = v.pos

/-- R52, R53: at a byte boundary `RDBITS 8` delivers the byte, and `RDBITS 32` the four bytes as a big-endian word. -/
def Obligations.AlignedReadsAreBigEndian : Prop :=
  ∀ s : State, s.fault = false → s.pos % 8 = 0 →
    (8 ≤ s.remaining → ∃ t, exec (.rdbits 8) s = .next t ∧
      t.res.toNat = (Memory.read s.buf (s.pos / 8)).toNat) ∧
    (32 ≤ s.remaining → ∃ t, exec (.rdbits 32) s = .next t ∧
      t.res.toNat = (Memory.read s.buf (s.pos / 8)).toNat * 2 ^ 24 +
        (Memory.read s.buf (s.pos / 8 + 1)).toNat * 2 ^ 16 +
        (Memory.read s.buf (s.pos / 8 + 2)).toNat * 2 ^ 8 +
        (Memory.read s.buf (s.pos / 8 + 3)).toNat)

/-- R201, derived in the spec: the block after reset and before any `LOAD`, for every `XLEN`. -/
def Obligations.CommandsAfterReset : Prop :=
  ∀ x n : Nat,
    exec (.remain n) (State.resetOf x) = .next (State.resetOf x) ∧
    exec (.hasrem n) (State.resetOf x) = .next { State.resetOf x with flg := decide (n = 0) } ∧
    exec (.trybit n) (State.resetOf x) = .next (State.resetOf x) ∧
    TakesFault (State.resetOf x) .underrun (exec (.rdbit n) (State.resetOf x)) ∧
    TakesFault (State.resetOf x) .notEnoughBits (exec (.findsub n) (State.resetOf x)) ∧
    TakesFault (State.resetOf x) .underrun (exec (.lsplbr n) (State.resetOf x)) ∧
    TakesFault (State.resetOf x) .underrun (exec (.lspnb n) (State.resetOf x)) ∧
    (if n = 0 then
      exec (.rdbits n) (State.resetOf x) = .next { State.resetOf x with vld := true } ∧
      exec (.trybits n) (State.resetOf x) = .next { State.resetOf x with vld := true } ∧
      exec (.skip n) (State.resetOf x) = .next (State.resetOf x) ∧
      TakesFault (State.resetOf x) .signedZeroWidth (exec (.rdbitss n) (State.resetOf x)) ∧
      TakesFault (State.resetOf x) .signedZeroWidth (exec (.trybitss n) (State.resetOf x))
    else if n ≤ 32 then
      TakesFault (State.resetOf x) .underrun (exec (.rdbits n) (State.resetOf x)) ∧
      TakesFault (State.resetOf x) .underrun (exec (.rdbitss n) (State.resetOf x)) ∧
      exec (.trybits n) (State.resetOf x) = .next (State.resetOf x) ∧ exec (.trybitss n) (State.resetOf x) = .next (State.resetOf x) ∧
      TakesFault (State.resetOf x) .underrun (exec (.skip n) (State.resetOf x))
    else
      TakesFault (State.resetOf x) .width (exec (.rdbits n) (State.resetOf x)) ∧
      TakesFault (State.resetOf x) .width (exec (.rdbitss n) (State.resetOf x)) ∧
      TakesFault (State.resetOf x) .width (exec (.trybits n) (State.resetOf x)) ∧
      TakesFault (State.resetOf x) .width (exec (.trybitss n) (State.resetOf x)) ∧
      TakesFault (State.resetOf x) .underrun (exec (.skip n) (State.resetOf x)))

/-! ### The frame header -/

/-- R71, R72 shape `H0`, R142: flag 0 and a selector of 0 to 8. -/
def Obligations.FindsubPlainHeader : Prop :=
  ∀ (n : Nat) (s : State), s.fault = false → 5 ≤ s.remaining → s.bitAt s.pos = 0 →
    s.fieldValue (s.pos + 1) 4 ≤ 8 →
    ∃ t, exec (.findsub n) s = .next t ∧ t.pos = s.pos + 5 ∧ t.remaining = s.remaining - 5 ∧
      t.sub.toNat = s.fieldValue (s.pos + 1) 4 ∧ t = { s with pos := t.pos, sub := t.sub }

/-- R71, R72 shape `H1`, R142: one layer of `S1 = WB_SKIP[TAG1]` bits, whatever the table holds (log 2). -/
def Obligations.FindsubOneLayer : Prop :=
  ∀ (n : Nat) (s : State) (s1 : Nat), s.fault = false → s.skipAt (Config.wbSkip s.xlen) (s.pos + 1) = s1 →
    9 + s1 ≤ s.remaining → s.bitAt s.pos = 1 → s.bitAt (s.pos + 4 + s1) = 0 →
    s.fieldValue (s.pos + 5 + s1) 4 ≤ 8 →
    ∃ t, exec (.findsub n) s = .next t ∧ t.pos = s.pos + 9 + s1 ∧ t.remaining = s.remaining - (9 + s1) ∧
      t.sub.toNat = s.fieldValue (s.pos + 5 + s1) 4 ∧ t = { s with pos := t.pos, sub := t.sub }

/-- R71, R72 shape `H2`, R142: two layers of `S1` and `S2` bits, whatever the table holds (log 2). -/
def Obligations.FindsubTwoLayers : Prop :=
  ∀ (n : Nat) (s : State) (s1 s2 : Nat), s.fault = false → s.skipAt (Config.wbSkip s.xlen) (s.pos + 1) = s1 →
    s.skipAt (Config.wbSkip s.xlen) (s.pos + 5 + s1) = s2 → 13 + s1 + s2 ≤ s.remaining →
    s.bitAt s.pos = 1 → s.bitAt (s.pos + 4 + s1) = 1 → s.bitAt (s.pos + 8 + s1 + s2) = 0 →
    s.fieldValue (s.pos + 9 + s1 + s2) 4 ≤ 8 →
    ∃ t, exec (.findsub n) s = .next t ∧ t.pos = s.pos + 13 + s1 + s2 ∧
      t.remaining = s.remaining - (13 + s1 + s2) ∧
      t.sub.toNat = s.fieldValue (s.pos + 9 + s1 + s2) 4 ∧ t = { s with pos := t.pos, sub := t.sub }

/-- R146: a third consecutive wideband flag is corruption, whether or not a selector follows it. -/
def Obligations.FindsubThirdLayerFaults : Prop :=
  ∀ (n : Nat) (s : State) (s1 s2 : Nat), s.fault = false → s.skipAt (Config.wbSkip s.xlen) (s.pos + 1) = s1 →
    s.skipAt (Config.wbSkip s.xlen) (s.pos + 5 + s1) = s2 → 9 + s1 + s2 ≤ s.remaining →
    s.bitAt s.pos = 1 → s.bitAt (s.pos + 4 + s1) = 1 → s.bitAt (s.pos + 8 + s1 + s2) = 1 →
    TakesFault s .tooManyWbLayers (exec (.findsub n) s)

/-- R74, scenario S3 of 95_test_vectors.md: tag `000` has no payload, whatever the rest of the table holds. -/
def Obligations.FindsubTagZeroHasNoPayload : Prop :=
  ∀ (n : Nat) (s : State), s.fault = false → 9 ≤ s.remaining → s.bitAt s.pos = 1 →
    s.fieldValue (s.pos + 1) 3 = 0 → s.bitAt (s.pos + 4) = 0 →
    s.fieldValue (s.pos + 5) 4 ≤ 8 →
    ∃ t, exec (.findsub n) s = .next t ∧ t.pos = s.pos + 9 ∧
      t.sub.toNat = s.fieldValue (s.pos + 5) 4 ∧ t = { s with pos := t.pos, sub := t.sub }

/-- R75 (the spec's decisions D16, D19): the selectors 9 to 15 after a clear flag, each with its cause. -/
def Obligations.FindsubSelectorFaults : Prop :=
  ∀ (n : Nat) (s : State), s.fault = false → 5 ≤ s.remaining → s.bitAt s.pos = 0 →
    (9 ≤ s.fieldValue (s.pos + 1) 4 → s.fieldValue (s.pos + 1) 4 ≤ 12 →
      TakesFault s .reservedSubmode (exec (.findsub n) s)) ∧
    (s.fieldValue (s.pos + 1) 4 = 13 → TakesFault s .nhUserInband (exec (.findsub n) s)) ∧
    (s.fieldValue (s.pos + 1) 4 = 14 → TakesFault s .nhCodecInband (exec (.findsub n) s)) ∧
    (s.fieldValue (s.pos + 1) 4 = 15 → TakesFault s .nhTerminator (exec (.findsub n) s))

/-- R141 against R71, R142 and R143 (decisions D14, D15, D16), for every skip table: the algorithm that moves the cursor
comes to exactly what the field addresses and the fault table say. `FINDSUB` is the case of the block's own table. -/
def Obligations.FindsubFollowsTheFaultTable : Prop :=
  (∀ (n : Nat) (s : State), exec (.findsub n) s = s.command fun s => s.findSubmode (Config.wbSkip s.xlen)) ∧
  ∀ (table : Tag → Nat) (s : State), s.fault = false →
    match s.headerOutcome table with
    | .ok (q, c) =>
      ∃ t, (s.command fun s => s.findSubmode table) = .next t ∧ t.pos = q ∧ t.sub.toNat = c ∧
        t = { s with pos := t.pos, sub := t.sub }
    | .error cause => TakesFault s cause (s.command fun s => s.findSubmode table)

/-- R144, derived in the spec: with a minimum header present and no second layer, no availability fault is met after the
first layer; only the selector can fault. -/
def Obligations.SelectorIsThereWithoutASecondLayer : Prop :=
  ∀ (n : Nat) (s t : State) (s1 : Nat), s.fault = false → exec (.findsub n) s = .next t → t.fault = true →
    s.skipAt (Config.wbSkip s.xlen) (s.pos + 1) = s1 →
    (s.bitAt s.pos = 0 ∧ 5 ≤ s.remaining ∨
      s.bitAt s.pos = 1 ∧ 9 + s1 ≤ s.remaining ∧ s.bitAt (s.pos + 4 + s1) = 0) →
    t.cause = Cause.code .reservedSubmode ∨ t.cause = Cause.code .nhUserInband ∨
      t.cause = Cause.code .nhCodecInband ∨ t.cause = Cause.code .nhTerminator

/-- R73, R142: `FINDSUB` reads the flags, the tags and the selector and no other bit. A buffer of the same length that agrees
on those bits gives the same outcome. -/
def Obligations.SkippedPayloadIsUnread : Prop :=
  ∀ (n : Nat) (s : State) (other : List Host.Cell), s.fault = false →
    (∀ k ∈ s.headerReads (Config.wbSkip s.xlen), State.bitAt { s with buf := other } k = s.bitAt k) →
    ∃ t u, exec (.findsub n) s = .next t ∧ exec (.findsub n) { s with buf := other } = .next u ∧
      u.fault = t.fault ∧ u.cause = t.cause ∧ u.buf = other ∧ t.buf = s.buf ∧
      (t.fault = false → u = { t with buf := other })

/-- R70, R71, R77, R141: `FINDSUB` comes to what taking its fields one at a time at the cursor comes to (the single fields
are the model's own requests, log 4, log 5), by the flags the stream holds. -/
def Obligations.FindsubIsItsFields : Prop :=
  ∀ (n : Nat) (s : State) (s1 : Nat), s.fault = false → s.skipAt (Config.wbSkip s.xlen) (s.pos + 1) = s1 →
    SameOutcome (exec (.findsub n) s)
      (runFields (if s.bitAt s.pos = 0 then [.flag1, .code]
        else if s.bitAt (s.pos + 4 + s1) = 0 then [.flag1, .tag, .flag2, .code]
        else [.flag1, .tag, .flag2, .tag, .flag3, .code]) s)

/-! ### The fields of a header, one at a time (log 5) -/

/-- `F1=0`, `F1=1`, `F2=0`, `F2=1` (R71, R141 steps 1, 2, 2b, 2c): one bit where a minimum header is left, else
`NOT_ENOUGH_BITS`. -/
def Obligations.FlagFieldsMoveByOne : Prop :=
  ∀ (i : Instr) (s : State), s.fault = false → i ∈ [Instr.f1Clear, .f1Set, .f2Clear, .f2Set] →
    if 5 ≤ s.remaining then
      ∃ t, exec i s = .next t ∧ t.pos = s.pos + 1 ∧ t = { s with pos := t.pos }
    else TakesFault s .notEnoughBits (exec i s)

/-- `F3=0` and `F3=1` (R145, R146; the unchecked read is the spec's decision D14): one bit, which must be 0. -/
def Obligations.ThirdFlagField : Prop :=
  ∀ s : State, s.fault = false →
    if 1 ≤ s.remaining then
      (∃ t, exec .f3Clear s = .next t ∧ t.pos = s.pos + 1 ∧ t = { s with pos := t.pos }) ∧
      TakesFault s .tooManyWbLayers (exec .f3Set s)
    else TakesFault s .underrun (exec .f3Clear s) ∧ TakesFault s .underrun (exec .f3Set s)

/-- `WBTAG_0` to `WBTAG_7` (R73, R74): the tag's three bits and its layer's payload, whatever the table holds (log 2);
`UNDERRUN` where the stream ends before them. No tag value faults of itself. -/
def Obligations.TagFieldsSkipTheirLayer : Prop :=
  ∀ (i : Instr) (tag : Tag) (s : State), s.fault = false →
    (i, tag) ∈ [(Instr.wbtag0, 0#3), (.wbtag1, 1#3), (.wbtag2, 2#3), (.wbtag3, 3#3), (.wbtag4, 4#3), (.wbtag5, 5#3),
      (.wbtag6, 6#3), (.wbtag7, 7#3)] →
    if 3 + Config.wbSkip s.xlen tag ≤ s.remaining then
      ∃ t, exec i s = .next t ∧ t.pos = s.pos + 3 + Config.wbSkip s.xlen tag ∧ t = { s with pos := t.pos }
    else TakesFault s .underrun (exec i s)

/-- `CODE_0` to `CODE_8` (R75, R147): four bits and `SUB`; `NOT_ENOUGH_BITS` where fewer are left (R141 step 3). -/
def Obligations.CodeFieldsSelect : Prop :=
  ∀ (i : Instr) (c : Code) (s : State), s.fault = false →
    (i, c) ∈ [(Instr.code0, 0#4), (.code1, 1#4), (.code2, 2#4), (.code3, 3#4), (.code4, 4#4), (.code5, 5#4),
      (.code6, 6#4), (.code7, 7#4), (.code8, 8#4)] →
    if 4 ≤ s.remaining then
      ∃ t, exec i s = .next t ∧ t.pos = s.pos + 4 ∧ t.sub = c ∧ t = { s with pos := t.pos, sub := t.sub }
    else TakesFault s .notEnoughBits (exec i s)

/-- `CODE_9` to `CODE_15` (R75; causes by the spec's decisions D10, D16): the effect is the fault of the code. -/
def Obligations.CodeFieldsFault : Prop :=
  ∀ (i : Instr) (c : Cause) (s : State), s.fault = false →
    (i, c) ∈ [(Instr.code9, Cause.reservedSubmode), (.code10, .reservedSubmode), (.code11, .reservedSubmode),
      (.code12, .reservedSubmode), (.code13, .nhUserInband), (.code14, .nhCodecInband), (.code15, .nhTerminator)] →
    if 4 ≤ s.remaining then TakesFault s c (exec i s) else TakesFault s .notEnoughBits (exec i s)

/-- `LSP_LBR_RECORD` and `LSP_NB_RECORD` (R78, R79; order by the spec's decision D20): the record's bits and the file;
`UNDERRUN` where the stream ends before them. -/
def Obligations.LspRecordFields : Prop :=
  ∀ (m a b c d : LspIndex) (s : State), s.fault = false →
    (if 18 ≤ s.remaining then
      ∃ t, exec (.lspLbrRecord m a b) s = .next t ∧ t.pos = s.pos + 18 ∧ t.lsp = #v[m, a, b, 0, 0] ∧
        t = { s with pos := t.pos, lsp := t.lsp }
    else TakesFault s .underrun (exec (.lspLbrRecord m a b) s)) ∧
    (if 30 ≤ s.remaining then
      ∃ t, exec (.lspNbRecord m a b c d) s = .next t ∧ t.pos = s.pos + 30 ∧ t.lsp = #v[m, a, b, c, d] ∧
        t = { s with pos := t.pos, lsp := t.lsp }
    else TakesFault s .underrun (exec (.lspNbRecord m a b c d) s))

/-! ### The LSP readers -/

/-- R160 with R162 (the spec's decisions D7, D20): three indices of 6 bits, then two zeros; `UNDERRUN` below 18 bits. -/
def Obligations.LsplbrReadsThree : Prop :=
  ∀ (n : Nat) (s : State), s.fault = false →
    if 18 ≤ s.remaining then
      ∃ t, exec (.lsplbr n) s = .next t ∧ t.pos = s.pos + 18 ∧
        (∀ i : Fin 5, (t.lsp[i]).toNat = if i.val < 3 then s.fieldValue (s.pos + 6 * i.val) 6 else 0) ∧
        t = { s with pos := t.pos, lsp := t.lsp }
    else TakesFault s .underrun (exec (.lsplbr n) s)

/-- R161 with R162 (the spec's decisions D7, D20): five indices of 6 bits; `UNDERRUN` below 30 bits. -/
def Obligations.LspnbReadsFive : Prop :=
  ∀ (n : Nat) (s : State), s.fault = false →
    if 30 ≤ s.remaining then
      ∃ t, exec (.lspnb n) s = .next t ∧ t.pos = s.pos + 30 ∧
        (∀ i : Fin 5, (t.lsp[i]).toNat = s.fieldValue (s.pos + 6 * i.val) 6) ∧
        t = { s with pos := t.pos, lsp := t.lsp }
    else TakesFault s .underrun (exec (.lspnb n) s)

/-- R78, R79 against R160, R161: a reader comes to what taking its record whole at the cursor comes to (the record on its own
is the model's request, log 4, log 5). -/
def Obligations.LspReadersTakeTheirRecords : Prop :=
  ∀ (n : Nat) (s : State),
    SameOutcome (exec (.lsplbr n) s) (runField .lspLbr s) ∧ SameOutcome (exec (.lspnb n) s) (runField .lspNb s)
end

