-- ==== Sys2Proof/Laws/State.lean ====
section
/-! SUPPORT. What each named update of the state leaves in each field. -/

namespace Sys2Proof.Machine

@[simp] theorem State.advance_xlen (s : State) (n : Nat) : (s.advance n).xlen = s.xlen := rfl
@[simp] theorem State.advance_buf (s : State) (n : Nat) : (s.advance n).buf = s.buf := rfl
@[simp] theorem State.advance_len (s : State) (n : Nat) : (s.advance n).len = s.len := rfl
@[simp] theorem State.advance_pos (s : State) (n : Nat) : (s.advance n).pos = s.pos + n := rfl
@[simp] theorem State.advance_res (s : State) (n : Nat) : (s.advance n).res = s.res := rfl
@[simp] theorem State.advance_vld (s : State) (n : Nat) : (s.advance n).vld = s.vld := rfl
@[simp] theorem State.advance_cnt (s : State) (n : Nat) : (s.advance n).cnt = s.cnt := rfl
@[simp] theorem State.advance_flg (s : State) (n : Nat) : (s.advance n).flg = s.flg := rfl
@[simp] theorem State.advance_sub (s : State) (n : Nat) : (s.advance n).sub = s.sub := rfl
@[simp] theorem State.advance_lsp (s : State) (n : Nat) : (s.advance n).lsp = s.lsp := rfl
@[simp] theorem State.advance_fault (s : State) (n : Nat) : (s.advance n).fault = s.fault := rfl
@[simp] theorem State.advance_cause (s : State) (n : Nat) : (s.advance n).cause = s.cause := rfl
@[simp] theorem State.advance_port (s : State) (n : Nat) : (s.advance n).port = s.port := rfl
@[simp] theorem State.advance_din (s : State) (n : Nat) : (s.advance n).din = s.din := rfl
@[simp] theorem State.advance_fresh (s : State) (n : Nat) : (s.advance n).fresh = s.fresh := rfl
@[simp] theorem State.advance_everFaulted (s : State) (n : Nat) : (s.advance n).everFaulted = s.everFaulted := rfl

@[simp] theorem State.setFlg_xlen (s : State) (b : Bool) : (s.setFlg b).xlen = s.xlen := rfl
@[simp] theorem State.setFlg_buf (s : State) (b : Bool) : (s.setFlg b).buf = s.buf := rfl
@[simp] theorem State.setFlg_len (s : State) (b : Bool) : (s.setFlg b).len = s.len := rfl
@[simp] theorem State.setFlg_pos (s : State) (b : Bool) : (s.setFlg b).pos = s.pos := rfl
@[simp] theorem State.setFlg_res (s : State) (b : Bool) : (s.setFlg b).res = s.res := rfl
@[simp] theorem State.setFlg_vld (s : State) (b : Bool) : (s.setFlg b).vld = s.vld := rfl
@[simp] theorem State.setFlg_cnt (s : State) (b : Bool) : (s.setFlg b).cnt = s.cnt := rfl
@[simp] theorem State.setFlg_flg (s : State) (b : Bool) : (s.setFlg b).flg = b := rfl
@[simp] theorem State.setFlg_sub (s : State) (b : Bool) : (s.setFlg b).sub = s.sub := rfl
@[simp] theorem State.setFlg_lsp (s : State) (b : Bool) : (s.setFlg b).lsp = s.lsp := rfl
@[simp] theorem State.setFlg_fault (s : State) (b : Bool) : (s.setFlg b).fault = s.fault := rfl
@[simp] theorem State.setFlg_cause (s : State) (b : Bool) : (s.setFlg b).cause = s.cause := rfl
@[simp] theorem State.setFlg_port (s : State) (b : Bool) : (s.setFlg b).port = s.port := rfl
@[simp] theorem State.setFlg_din (s : State) (b : Bool) : (s.setFlg b).din = s.din := rfl
@[simp] theorem State.setFlg_fresh (s : State) (b : Bool) : (s.setFlg b).fresh = s.fresh := rfl
@[simp] theorem State.setFlg_everFaulted (s : State) (b : Bool) : (s.setFlg b).everFaulted = s.everFaulted := rfl

@[simp] theorem State.setCnt_xlen (s : State) (r : Nat) : (s.setCnt r).xlen = s.xlen := rfl
@[simp] theorem State.setCnt_buf (s : State) (r : Nat) : (s.setCnt r).buf = s.buf := rfl
@[simp] theorem State.setCnt_len (s : State) (r : Nat) : (s.setCnt r).len = s.len := rfl
@[simp] theorem State.setCnt_pos (s : State) (r : Nat) : (s.setCnt r).pos = s.pos := rfl
@[simp] theorem State.setCnt_res (s : State) (r : Nat) : (s.setCnt r).res = s.res := rfl
@[simp] theorem State.setCnt_vld (s : State) (r : Nat) : (s.setCnt r).vld = s.vld := rfl
@[simp] theorem State.setCnt_cnt (s : State) (r : Nat) : (s.setCnt r).cnt = r := rfl
@[simp] theorem State.setCnt_flg (s : State) (r : Nat) : (s.setCnt r).flg = s.flg := rfl
@[simp] theorem State.setCnt_sub (s : State) (r : Nat) : (s.setCnt r).sub = s.sub := rfl
@[simp] theorem State.setCnt_lsp (s : State) (r : Nat) : (s.setCnt r).lsp = s.lsp := rfl
@[simp] theorem State.setCnt_fault (s : State) (r : Nat) : (s.setCnt r).fault = s.fault := rfl
@[simp] theorem State.setCnt_cause (s : State) (r : Nat) : (s.setCnt r).cause = s.cause := rfl
@[simp] theorem State.setCnt_port (s : State) (r : Nat) : (s.setCnt r).port = s.port := rfl
@[simp] theorem State.setCnt_din (s : State) (r : Nat) : (s.setCnt r).din = s.din := rfl
@[simp] theorem State.setCnt_fresh (s : State) (r : Nat) : (s.setCnt r).fresh = s.fresh := rfl
@[simp] theorem State.setCnt_everFaulted (s : State) (r : Nat) : (s.setCnt r).everFaulted = s.everFaulted := rfl

@[simp] theorem State.setRead_xlen (s : State) (r : Option Result) : (s.setRead r).xlen = s.xlen := rfl
@[simp] theorem State.setRead_buf (s : State) (r : Option Result) : (s.setRead r).buf = s.buf := rfl
@[simp] theorem State.setRead_len (s : State) (r : Option Result) : (s.setRead r).len = s.len := rfl
@[simp] theorem State.setRead_pos (s : State) (r : Option Result) : (s.setRead r).pos = s.pos := rfl
@[simp] theorem State.setRead_res (s : State) (r : Option Result) : (s.setRead r).res = r.getD 0 := rfl
@[simp] theorem State.setRead_vld (s : State) (r : Option Result) : (s.setRead r).vld = r.isSome := rfl
@[simp] theorem State.setRead_cnt (s : State) (r : Option Result) : (s.setRead r).cnt = s.cnt := rfl
@[simp] theorem State.setRead_flg (s : State) (r : Option Result) : (s.setRead r).flg = s.flg := rfl
@[simp] theorem State.setRead_sub (s : State) (r : Option Result) : (s.setRead r).sub = s.sub := rfl
@[simp] theorem State.setRead_lsp (s : State) (r : Option Result) : (s.setRead r).lsp = s.lsp := rfl
@[simp] theorem State.setRead_fault (s : State) (r : Option Result) : (s.setRead r).fault = s.fault := rfl
@[simp] theorem State.setRead_cause (s : State) (r : Option Result) : (s.setRead r).cause = s.cause := rfl
@[simp] theorem State.setRead_port (s : State) (r : Option Result) : (s.setRead r).port = s.port := rfl
@[simp] theorem State.setRead_din (s : State) (r : Option Result) : (s.setRead r).din = s.din := rfl
@[simp] theorem State.setRead_fresh (s : State) (r : Option Result) : (s.setRead r).fresh = s.fresh := rfl
@[simp] theorem State.setRead_everFaulted (s : State) (r : Option Result) : (s.setRead r).everFaulted = s.everFaulted := rfl

@[simp] theorem State.setSub_xlen (s : State) (c : Code) : (s.setSub c).xlen = s.xlen := rfl
@[simp] theorem State.setSub_buf (s : State) (c : Code) : (s.setSub c).buf = s.buf := rfl
@[simp] theorem State.setSub_len (s : State) (c : Code) : (s.setSub c).len = s.len := rfl
@[simp] theorem State.setSub_pos (s : State) (c : Code) : (s.setSub c).pos = s.pos := rfl
@[simp] theorem State.setSub_res (s : State) (c : Code) : (s.setSub c).res = s.res := rfl
@[simp] theorem State.setSub_vld (s : State) (c : Code) : (s.setSub c).vld = s.vld := rfl
@[simp] theorem State.setSub_cnt (s : State) (c : Code) : (s.setSub c).cnt = s.cnt := rfl
@[simp] theorem State.setSub_flg (s : State) (c : Code) : (s.setSub c).flg = s.flg := rfl
@[simp] theorem State.setSub_sub (s : State) (c : Code) : (s.setSub c).sub = c := rfl
@[simp] theorem State.setSub_lsp (s : State) (c : Code) : (s.setSub c).lsp = s.lsp := rfl
@[simp] theorem State.setSub_fault (s : State) (c : Code) : (s.setSub c).fault = s.fault := rfl
@[simp] theorem State.setSub_cause (s : State) (c : Code) : (s.setSub c).cause = s.cause := rfl
@[simp] theorem State.setSub_port (s : State) (c : Code) : (s.setSub c).port = s.port := rfl
@[simp] theorem State.setSub_din (s : State) (c : Code) : (s.setSub c).din = s.din := rfl
@[simp] theorem State.setSub_fresh (s : State) (c : Code) : (s.setSub c).fresh = s.fresh := rfl
@[simp] theorem State.setSub_everFaulted (s : State) (c : Code) : (s.setSub c).everFaulted = s.everFaulted := rfl

@[simp] theorem State.setLsp_xlen (s : State) (r : Vector LspIndex 5) : (s.setLsp r).xlen = s.xlen := rfl
@[simp] theorem State.setLsp_buf (s : State) (r : Vector LspIndex 5) : (s.setLsp r).buf = s.buf := rfl
@[simp] theorem State.setLsp_len (s : State) (r : Vector LspIndex 5) : (s.setLsp r).len = s.len := rfl
@[simp] theorem State.setLsp_pos (s : State) (r : Vector LspIndex 5) : (s.setLsp r).pos = s.pos := rfl
@[simp] theorem State.setLsp_res (s : State) (r : Vector LspIndex 5) : (s.setLsp r).res = s.res := rfl
@[simp] theorem State.setLsp_vld (s : State) (r : Vector LspIndex 5) : (s.setLsp r).vld = s.vld := rfl
@[simp] theorem State.setLsp_cnt (s : State) (r : Vector LspIndex 5) : (s.setLsp r).cnt = s.cnt := rfl
@[simp] theorem State.setLsp_flg (s : State) (r : Vector LspIndex 5) : (s.setLsp r).flg = s.flg := rfl
@[simp] theorem State.setLsp_sub (s : State) (r : Vector LspIndex 5) : (s.setLsp r).sub = s.sub := rfl
@[simp] theorem State.setLsp_lsp (s : State) (r : Vector LspIndex 5) : (s.setLsp r).lsp = r := rfl
@[simp] theorem State.setLsp_fault (s : State) (r : Vector LspIndex 5) : (s.setLsp r).fault = s.fault := rfl
@[simp] theorem State.setLsp_cause (s : State) (r : Vector LspIndex 5) : (s.setLsp r).cause = s.cause := rfl
@[simp] theorem State.setLsp_port (s : State) (r : Vector LspIndex 5) : (s.setLsp r).port = s.port := rfl
@[simp] theorem State.setLsp_din (s : State) (r : Vector LspIndex 5) : (s.setLsp r).din = s.din := rfl
@[simp] theorem State.setLsp_fresh (s : State) (r : Vector LspIndex 5) : (s.setLsp r).fresh = s.fresh := rfl
@[simp] theorem State.setLsp_everFaulted (s : State) (r : Vector LspIndex 5) : (s.setLsp r).everFaulted = s.everFaulted := rfl

@[simp] theorem State.takeFault_xlen (s : State) (c : Cause) : (s.takeFault c).xlen = s.xlen := rfl
@[simp] theorem State.takeFault_buf (s : State) (c : Cause) : (s.takeFault c).buf = s.buf := rfl
@[simp] theorem State.takeFault_len (s : State) (c : Cause) : (s.takeFault c).len = s.len := rfl
@[simp] theorem State.takeFault_pos (s : State) (c : Cause) : (s.takeFault c).pos = (Config.freePos s.xlen s.fresh).toNat := rfl
@[simp] theorem State.takeFault_res (s : State) (c : Cause) : (s.takeFault c).res = Config.freeRes s.fresh := rfl
@[simp] theorem State.takeFault_vld (s : State) (c : Cause) : (s.takeFault c).vld = Config.freeVld s.fresh := rfl
@[simp] theorem State.takeFault_cnt (s : State) (c : Cause) : (s.takeFault c).cnt = (Config.freeCnt s.xlen s.fresh).toNat := rfl
@[simp] theorem State.takeFault_flg (s : State) (c : Cause) : (s.takeFault c).flg = Config.freeFlg s.fresh := rfl
@[simp] theorem State.takeFault_sub (s : State) (c : Cause) : (s.takeFault c).sub = Config.freeSub s.fresh := rfl
@[simp] theorem State.takeFault_lsp (s : State) (c : Cause) : (s.takeFault c).lsp = Config.freeLsp s.fresh := rfl
@[simp] theorem State.takeFault_fault (s : State) (c : Cause) : (s.takeFault c).fault = true := rfl
@[simp] theorem State.takeFault_cause (s : State) (c : Cause) : (s.takeFault c).cause = c.code := rfl
@[simp] theorem State.takeFault_port (s : State) (c : Cause) : (s.takeFault c).port = s.port := rfl
@[simp] theorem State.takeFault_din (s : State) (c : Cause) : (s.takeFault c).din = s.din := rfl
@[simp] theorem State.takeFault_fresh (s : State) (c : Cause) : (s.takeFault c).fresh = s.fresh + 1 := rfl
@[simp] theorem State.takeFault_everFaulted (s : State) (c : Cause) : (s.takeFault c).everFaulted = true := rfl

@[simp] theorem State.bindBuffer_xlen (s : State) (n : Nat) (bytes : List Byte) : (s.bindBuffer n bytes).xlen = s.xlen := rfl
@[simp] theorem State.bindBuffer_buf (s : State) (n : Nat) (bytes : List Byte) : (s.bindBuffer n bytes).buf = Memory.ofBytes n bytes := rfl
@[simp] theorem State.bindBuffer_len (s : State) (n : Nat) (bytes : List Byte) : (s.bindBuffer n bytes).len = n := rfl
@[simp] theorem State.bindBuffer_pos (s : State) (n : Nat) (bytes : List Byte) : (s.bindBuffer n bytes).pos = 0 := rfl
@[simp] theorem State.bindBuffer_res (s : State) (n : Nat) (bytes : List Byte) : (s.bindBuffer n bytes).res = 0 := rfl
@[simp] theorem State.bindBuffer_vld (s : State) (n : Nat) (bytes : List Byte) : (s.bindBuffer n bytes).vld = false := rfl
@[simp] theorem State.bindBuffer_cnt (s : State) (n : Nat) (bytes : List Byte) : (s.bindBuffer n bytes).cnt = 0 := rfl
@[simp] theorem State.bindBuffer_flg (s : State) (n : Nat) (bytes : List Byte) : (s.bindBuffer n bytes).flg = false := rfl
@[simp] theorem State.bindBuffer_sub (s : State) (n : Nat) (bytes : List Byte) : (s.bindBuffer n bytes).sub = 0 := rfl
@[simp] theorem State.bindBuffer_lsp (s : State) (n : Nat) (bytes : List Byte) : (s.bindBuffer n bytes).lsp = #v[0, 0, 0, 0, 0] := rfl
@[simp] theorem State.bindBuffer_fault (s : State) (n : Nat) (bytes : List Byte) : (s.bindBuffer n bytes).fault = false := rfl
@[simp] theorem State.bindBuffer_cause (s : State) (n : Nat) (bytes : List Byte) : (s.bindBuffer n bytes).cause = 0 := rfl
@[simp] theorem State.bindBuffer_port (s : State) (n : Nat) (bytes : List Byte) : (s.bindBuffer n bytes).port = s.port := rfl
@[simp] theorem State.bindBuffer_din (s : State) (n : Nat) (bytes : List Byte) : (s.bindBuffer n bytes).din = s.din := rfl
@[simp] theorem State.bindBuffer_fresh (s : State) (n : Nat) (bytes : List Byte) : (s.bindBuffer n bytes).fresh = s.fresh := rfl
@[simp] theorem State.bindBuffer_everFaulted (s : State) (n : Nat) (bytes : List Byte) : (s.bindBuffer n bytes).everFaulted = s.everFaulted := rfl

@[simp] theorem State.resetBlock_xlen (s : State) : (s.resetBlock).xlen = s.xlen := rfl
@[simp] theorem State.resetBlock_buf (s : State) : (s.resetBlock).buf = [] := rfl
@[simp] theorem State.resetBlock_len (s : State) : (s.resetBlock).len = 0 := rfl
@[simp] theorem State.resetBlock_pos (s : State) : (s.resetBlock).pos = 0 := rfl
@[simp] theorem State.resetBlock_res (s : State) : (s.resetBlock).res = 0 := rfl
@[simp] theorem State.resetBlock_vld (s : State) : (s.resetBlock).vld = false := rfl
@[simp] theorem State.resetBlock_cnt (s : State) : (s.resetBlock).cnt = 0 := rfl
@[simp] theorem State.resetBlock_flg (s : State) : (s.resetBlock).flg = false := rfl
@[simp] theorem State.resetBlock_sub (s : State) : (s.resetBlock).sub = 0 := rfl
@[simp] theorem State.resetBlock_lsp (s : State) : (s.resetBlock).lsp = #v[0, 0, 0, 0, 0] := rfl
@[simp] theorem State.resetBlock_fault (s : State) : (s.resetBlock).fault = false := rfl
@[simp] theorem State.resetBlock_cause (s : State) : (s.resetBlock).cause = 0 := rfl
@[simp] theorem State.resetBlock_port (s : State) : (s.resetBlock).port = s.port := rfl
@[simp] theorem State.resetBlock_din (s : State) : (s.resetBlock).din = [] := rfl
@[simp] theorem State.resetBlock_fresh (s : State) : (s.resetBlock).fresh = s.fresh := rfl
@[simp] theorem State.resetBlock_everFaulted (s : State) : (s.resetBlock).everFaulted = false := rfl

end Sys2Proof.Machine
end

