-- ==== Sys2Proof/Laws/Cursor.lean ====
section
/-! SUPPORT. What each procedure of the cursor does, once each: the value of a field (R53), and the reads and skips of R100
to R106 as equations over it. -/

namespace Sys2Proof.Machine

/-! ### Fields of the stream -/

theorem State.bitAt_le_one (s : State) (k : Nat) : s.bitAt k ≤ 1 := by
  unfold State.bitAt
  split
  · exact Bool.toNat_le _
  · exact Nat.zero_le _

@[simp] theorem State.fieldValue_zero (s : State) (p : Nat) : s.fieldValue p 0 = 0 := rfl

/-- A field one bit longer: the bits so far move up, the new bit is the least significant. -/
theorem State.fieldValue_succ (s : State) (p n : Nat) :
    s.fieldValue p (n + 1) = 2 * s.fieldValue p n + s.bitAt (p + n) := by
  unfold State.fieldValue
  rw [Finset.sum_range_succ, Finset.mul_sum]
  congr 1
  · refine Finset.sum_congr rfl fun i hi => ?_
    have hi := Finset.mem_range.mp hi
    rw [show n + 1 - 1 - i = (n - 1 - i) + 1 by omega, Nat.pow_succ]
    ring
  · simp

@[simp] theorem State.fieldValue_one (s : State) (p : Nat) : s.fieldValue p 1 = s.bitAt p := by
  simp [State.fieldValue_succ s p 0]

theorem State.fieldValue_lt (s : State) (p n : Nat) : s.fieldValue p n < 2 ^ n := by
  induction n with
  | zero => simp
  | succ n ih =>
    have := s.bitAt_le_one (p + n)
    rw [State.fieldValue_succ, Nat.pow_succ]
    omega

/-- A field read in two parts (R53): the high `a` bits, then the low `b`. -/
theorem State.fieldValue_add (s : State) (p a b : Nat) :
    s.fieldValue p (a + b) = s.fieldValue p a * 2 ^ b + s.fieldValue (p + a) b := by
  induction b with
  | zero => simp
  | succ b ih =>
    rw [← Nat.add_assoc, State.fieldValue_succ, ih, State.fieldValue_succ, Nat.pow_succ, Nat.add_assoc p a b]
    ring

/-- The stream depends on the buffer and its length alone. -/
theorem State.bitAt_congr {s t : State} (hb : t.buf = s.buf) (hl : t.len = s.len) (k : Nat) :
    t.bitAt k = s.bitAt k := by
  simp [State.bitAt, State.streamBit, State.memRead, hb, hl]

theorem State.fieldValue_congr {s t : State} (hb : t.buf = s.buf) (hl : t.len = s.len) (p n : Nat) :
    t.fieldValue p n = s.fieldValue p n := by
  simp [State.fieldValue, State.bitAt_congr hb hl]

@[simp] theorem State.bitAt_advance (s : State) (n k : Nat) : (s.advance n).bitAt k = s.bitAt k :=
  State.bitAt_congr rfl rfl k

@[simp] theorem State.fieldValue_advance (s : State) (m p n : Nat) :
    (s.advance m).fieldValue p n = s.fieldValue p n :=
  State.fieldValue_congr rfl rfl p n

/-! ### Moving the cursor -/

@[simp] theorem State.bits_advance (s : State) (n : Nat) : (s.advance n).bits = s.bits := rfl

theorem State.advance_zero (s : State) : s.advance 0 = s := rfl

theorem State.remaining_advance (s : State) (n : Nat) : (s.advance n).remaining = s.remaining - n := by
  simp only [State.remaining, State.advance_pos, State.bits_advance]
  omega

theorem State.advance_advance (s : State) (m n : Nat) : (s.advance m).advance n = s.advance (m + n) := by
  simp only [State.advance, Nat.add_assoc]

/-! ### Reading -/

/-- A stream bit below the end of the buffer is there. -/
theorem State.streamBit_eq {s : State} {k : Nat} (h : k < s.bits) : ∃ b : Bool, s.streamBit k = .ok b := by
  have hk : k / Config.byteW < s.len := by
    simp only [State.bits, Config.byteW] at *
    omega
  simp [State.streamBit, State.memRead, hk]

theorem State.bitAt_eq {s : State} {k : Nat} {b : Bool} (h : s.streamBit k = .ok b) : s.bitAt k = b.toNat := by
  simp [State.bitAt, h]

/-- `ReadBit` with a bit left returns the bit at the cursor and moves by one (R102). -/
theorem State.readBit_eq {s : State} (h : 1 ≤ s.remaining) :
    ∃ b : Bool, b.toNat = s.bitAt s.pos ∧ s.readBit = .done b (s.advance 1) := by
  obtain ⟨b, hb⟩ := s.streamBit_eq (k := s.pos) (by simp only [State.remaining] at h; omega)
  exact ⟨b, (State.bitAt_eq hb).symm, by simp [State.readBit, hb, Nat.not_lt.mpr h]⟩

/-- `ReadBit` with no bit left faults (R102). -/
theorem State.readBit_short {s : State} (h : s.remaining < 1) : s.readBit = .raise .underrun := by
  simp [State.readBit, h]

/-- The loop of `ReadBits` with enough bits left (R103). -/
theorem State.readLoop_eq {s : State} {n : Nat} (v : Nat) (h : n ≤ s.remaining) :
    s.readLoop n v = .done (v * 2 ^ n + s.fieldValue s.pos n) (s.advance n) := by
  induction n generalizing s v with
  | zero => simp [State.readLoop, State.advance_zero]
  | succ n ih =>
    obtain ⟨b, hb, hread⟩ := State.readBit_eq (s := s) (by omega)
    have hrem := s.remaining_advance 1
    rw [State.readLoop, hread, Proc.andThen, ih _ (by omega), State.fieldValue_advance,
      State.advance_pos, State.advance_advance, Nat.add_comm n 1,
      State.fieldValue_add, State.fieldValue_one, hb, Nat.pow_add]
    congr 1
    ring

/-- The loop of `ReadBits` with too few bits left (R103). -/
theorem State.readLoop_short {s : State} {n : Nat} (v : Nat) (h : s.remaining < n) :
    s.readLoop n v = .raise .underrun := by
  induction n generalizing s v with
  | zero => omega
  | succ n ih =>
    rcases Nat.lt_or_ge s.remaining 1 with h0 | h1
    · simp [State.readLoop, State.readBit_short h0, Proc.andThen]
    · obtain ⟨b, -, hread⟩ := State.readBit_eq h1
      rw [State.readLoop, hread, Proc.andThen, ih _ (by rw [State.remaining_advance]; omega)]

/-- `ReadBits(n)` of a legal width with enough bits left (R103). -/
theorem State.readBits_eq {s : State} {n : Nat} (hn : n ≤ 32) (h : n ≤ s.remaining) :
    s.readBits n = .done (s.fieldValue s.pos n) (s.advance n) := by
  simp [State.readBits, State.checkWidth, Config.maxW, Nat.not_lt.mpr hn, Proc.andThen, State.readLoop_eq 0 h]

/-- `ReadBits(n)` of a legal width with too few bits left (R103). -/
theorem State.readBits_short {s : State} {n : Nat} (hn : n ≤ 32) (h : s.remaining < n) :
    s.readBits n = .raise .underrun := by
  simp [State.readBits, State.checkWidth, Config.maxW, Nat.not_lt.mpr hn, Proc.andThen, State.readLoop_short 0 h]

/-- `ReadBits(n)` wider than 32 bits, whatever remains (R103). -/
theorem State.readBits_wide {s : State} {n : Nat} (hn : 32 < n) : s.readBits n = .raise .width := by
  simp [State.readBits, State.checkWidth, Config.maxW, hn, Proc.andThen]

/-- `ReadBitsSigned(n)` of a legal width with enough bits left (R104). -/
theorem State.readBitsSigned_eq {s : State} {n : Nat} (h0 : n ≠ 0) (hn : n ≤ 32) (h : n ≤ s.remaining) :
    s.readBitsSigned n = .done (sext32 (s.fieldValue s.pos n) n) (s.advance n) := by
  simp [State.readBitsSigned, State.checkSignedWidth, Config.maxW, Nat.not_lt.mpr hn, h0, Proc.andThen,
    State.readBits_eq hn h]

/-- `ReadBitsSigned(n)` of a legal width with too few bits left (R104). -/
theorem State.readBitsSigned_short {s : State} {n : Nat} (h0 : n ≠ 0) (hn : n ≤ 32) (h : s.remaining < n) :
    s.readBitsSigned n = .raise .underrun := by
  simp [State.readBitsSigned, State.checkSignedWidth, Config.maxW, Nat.not_lt.mpr hn, h0, Proc.andThen,
    State.readBits_short hn h]

/-- The width faults of `ReadBitsSigned` (R104). -/
theorem State.readBitsSigned_wide {s : State} {n : Nat} (hn : 32 < n) : s.readBitsSigned n = .raise .width := by
  simp [State.readBitsSigned, State.checkSignedWidth, Config.maxW, hn, Proc.andThen]

theorem State.readBitsSigned_zero {s : State} : s.readBitsSigned 0 = .raise .signedZeroWidth := by
  simp [State.readBitsSigned, State.checkSignedWidth, Config.maxW, Proc.andThen]

/-- `HasRemaining(n)` as a comparison of naturals (R101). -/
@[simp] theorem State.hasRemaining_iff (s : State) (n : Nat) : s.hasRemaining n = true ↔ n ≤ s.remaining := by
  simp [State.hasRemaining]

/-- `TryReadBits(n)` of a legal width with enough bits left (R105). -/
theorem State.tryReadBits_eq {s : State} {n : Nat} (hn : n ≤ 32) (h : n ≤ s.remaining) :
    s.tryReadBits n = .done (some (s.fieldValue s.pos n)) (s.advance n) := by
  simp [State.tryReadBits, State.checkWidth, Config.maxW, Nat.not_lt.mpr hn, Proc.andThen, h,
    State.readBits_eq hn h]

/-- `TryReadBits(n)` of a legal width with too few bits left: empty, and the cursor has not moved (R105). -/
theorem State.tryReadBits_short {s : State} {n : Nat} (hn : n ≤ 32) (h : s.remaining < n) :
    s.tryReadBits n = .done none s := by
  simp [State.tryReadBits, State.checkWidth, Config.maxW, Nat.not_lt.mpr hn, Proc.andThen, Nat.not_le.mpr h]

/-- `SkipBits(n)` within what remains (R106). -/
theorem State.skipBits_eq {s : State} {n : Nat} (h : n ≤ s.remaining) : s.skipBits n = .done () (s.advance n) := by
  simp [State.skipBits, Nat.not_lt.mpr h]

/-- `SkipBits(n)` past what remains (R106). -/
theorem State.skipBits_short {s : State} {n : Nat} (h : s.remaining < n) : s.skipBits n = .raise .underrun := by
  simp [State.skipBits, h]

/-- An availability check that holds changes nothing (R141). -/
theorem State.requireBits_eq {s : State} {n : Nat} {c : Cause} (h : n ≤ s.remaining) :
    s.requireBits n c = .done () s := by
  simp [State.requireBits, h]

/-- An availability check that fails (R141). -/
theorem State.requireBits_short {s : State} {n : Nat} {c : Cause} (h : s.remaining < n) :
    s.requireBits n c = .raise c := by
  simp [State.requireBits, Nat.not_le.mpr h]

end Sys2Proof.Machine
end

