-- ==== Sys2Proof/Laws/Command.lean ====
section
/-! SUPPORT. What running a command can come to, and the header's shared operations once each. -/

namespace Sys2Proof.Machine

/-! ### Commands -/

/-- While `FAULT = 1` a command changes nothing (R174). -/
theorem State.command_ignored {s : State} {p : State → Proc Unit} (h : s.fault = true) : s.command p = .next s := by
  simp [State.command, h]

/-- A command whose pseudocode completes. -/
theorem State.command_done {s t : State} {p : State → Proc Unit} (h : s.fault = false) (hp : p s = .done () t) :
    s.command p = .next t := by
  simp [State.command, h, hp]

/-- A command whose pseudocode raises a fault takes it from the state it began in (R109, R172). -/
theorem State.command_raise {s : State} {p : State → Proc Unit} {c : Cause} (h : s.fault = false)
    (hp : p s = .raise c) : s.command p = .next (s.takeFault c) := by
  simp [State.command, h, hp]

/-- Everything a command that answers a next state can have done. -/
theorem State.command_cases {s t : State} {p : State → Proc Unit} (h : s.command p = .next t) :
    (s.fault = true ∧ t = s) ∨ (s.fault = false ∧ p s = .done () t) ∨
      (s.fault = false ∧ ∃ c, p s = .raise c ∧ t = s.takeFault c) := by
  unfold State.command at h
  split at h
  · next hf => cases h; exact .inl ⟨hf, rfl⟩
  · next hf =>
    have hf : s.fault = false := by simpa using hf
    split at h
    · next u hp => cases h; exact .inr (.inl ⟨hf, hp⟩)
    · next c hp => cases h; exact .inr (.inr ⟨hf, c, hp, rfl⟩)
    · cases h

/-- Fault entry is the taking of the fault (R172, R173). -/
theorem takesFault_takeFault (s : State) (c : Cause) : TakesFault s c (.next (s.takeFault c)) :=
  ⟨_, rfl, rfl, rfl, rfl, rfl, rfl, rfl, rfl⟩

/-- A command whose pseudocode raises `c` takes fault `c`. -/
theorem State.command_takesFault {s : State} {p : State → Proc Unit} {c : Cause} (h : s.fault = false)
    (hp : p s = .raise c) : TakesFault s c (s.command p) := by
  rw [State.command_raise h hp]
  exact takesFault_takeFault s c

/-- What fault entry makes of a state depends on its buffer and the model's own fields alone. -/
theorem State.takeFault_advance (s : State) (n : Nat) (c : Cause) :
    (s.advance n).takeFault c = s.takeFault c := rfl

/-! ### Sequencing -/

@[simp] theorem Proc.done_andThen {α β : Type} (a : α) (s : State) (k : α → State → Proc β) :
    (Proc.done a s).andThen k = k a s := rfl

@[simp] theorem Proc.raise_andThen {α β : Type} (c : Cause) (k : α → State → Proc β) :
    (Proc.raise c : Proc α).andThen k = .raise c := rfl

/-! ### Everything a read or a skip can do -/

theorem State.readBit_cases (s : State) :
    (s.remaining < 1 ∧ s.readBit = .raise .underrun) ∨
      (1 ≤ s.remaining ∧ ∃ b : Bool, b.toNat = s.bitAt s.pos ∧ s.readBit = .done b (s.advance 1)) := by
  rcases Nat.lt_or_ge s.remaining 1 with h | h
  · exact .inl ⟨h, State.readBit_short h⟩
  · exact .inr ⟨h, State.readBit_eq h⟩

theorem State.readBits_cases (s : State) {n : Nat} (hn : n ≤ 32) :
    (s.remaining < n ∧ s.readBits n = .raise .underrun) ∨
      (n ≤ s.remaining ∧ s.readBits n = .done (s.fieldValue s.pos n) (s.advance n)) := by
  rcases Nat.lt_or_ge s.remaining n with h | h
  · exact .inl ⟨h, State.readBits_short hn h⟩
  · exact .inr ⟨h, State.readBits_eq hn h⟩

theorem State.skipBits_cases (s : State) (n : Nat) :
    (s.remaining < n ∧ s.skipBits n = .raise .underrun) ∨
      (n ≤ s.remaining ∧ s.skipBits n = .done () (s.advance n)) := by
  rcases Nat.lt_or_ge s.remaining n with h | h
  · exact .inl ⟨h, State.skipBits_short h⟩
  · exact .inr ⟨h, State.skipBits_eq h⟩

theorem State.requireBits_cases (s : State) (n : Nat) (c : Cause) :
    (s.remaining < n ∧ s.requireBits n c = .raise c) ∨
      (n ≤ s.remaining ∧ s.requireBits n c = .done () s) := by
  rcases Nat.lt_or_ge s.remaining n with h | h
  · exact .inl ⟨h, State.requireBits_short h⟩
  · exact .inr ⟨h, State.requireBits_eq h⟩

theorem State.skipAt_advance (s : State) (m : Nat) (table : Tag → Nat) (q : Nat) :
    (s.advance m).skipAt table q = s.skipAt table q := by
  simp [State.skipAt]

/-- Skipping a layer: its tag's three bits and its payload, or `UNDERRUN` where the stream ends first (R73, R141 step
2a). -/
theorem State.skipLayer_cases (s : State) (table : Tag → Nat) :
    (s.remaining < 3 + s.skipAt table s.pos ∧ s.skipLayer table = .raise .underrun) ∨
      (3 + s.skipAt table s.pos ≤ s.remaining ∧
        s.skipLayer table = .done () (s.advance (3 + s.skipAt table s.pos))) := by
  rcases s.readBits_cases (n := 3) (by decide) with ⟨h, hr⟩ | ⟨h, hr⟩
  · exact .inl ⟨by omega, by simp [State.skipLayer, hr]⟩
  · have hrem := s.remaining_advance 3
    rcases (s.advance 3).skipBits_cases (s.skipAt table s.pos) with ⟨h', hs⟩ | ⟨h', hs⟩
    · refine .inl ⟨by omega, ?_⟩
      rw [State.skipLayer, hr, Proc.done_andThen]
      exact hs
    · refine .inr ⟨by omega, ?_⟩
      rw [State.skipLayer, hr, Proc.done_andThen, ← State.advance_advance]
      exact hs

/-- A submode code's outcome (R75): `SUB` for 0 to 8, a fault for any other. -/
theorem State.selectSubmode_cases (s : State) (c : Nat) :
    (c ≤ 8 ∧ s.selectSubmode c = .done () (s.setSub (BitVec.ofNat _ c))) ∨
      (8 < c ∧ ∃ cause, s.selectSubmode c = .raise cause) := by
  unfold State.selectSubmode
  split
  · next h => exact .inl ⟨h, rfl⟩
  · next h =>
    refine .inr ⟨by omega, ?_⟩
    split
    · exact ⟨_, rfl⟩
    split
    · exact ⟨_, rfl⟩
    split <;> exact ⟨_, rfl⟩

/-- Step 3 of R141: the selector's four bits and its outcome, or `NOT_ENOUGH_BITS`. -/
theorem State.readSelector_cases (s : State) :
    (s.remaining < 4 ∧ s.readSelector = .raise .notEnoughBits) ∨
      (4 ≤ s.remaining ∧ s.readSelector = (s.advance 4).selectSubmode (s.fieldValue s.pos 4)) := by
  rcases Nat.lt_or_ge s.remaining 4 with h | h
  · exact .inl ⟨h, by simp [State.readSelector, State.tryReadBits_short (n := 4) (by decide) h]⟩
  · exact .inr ⟨h, by simp [State.readSelector, State.tryReadBits_eq (n := 4) (by decide) h]⟩

end Sys2Proof.Machine
end

