-- ==== Sys2Proof/Laws/Exec.lean ====
section
/-! SUPPORT. Everything an instruction can do, once: a fault taken, or one effect of a small set. Frames and invariants
follow from this without unfolding `exec`. -/

namespace Sys2Proof.Machine

/-- The shape of what an instruction leaves when it completes: which registers it can have written (R36). -/
def Effect (i : Instr) (s t : State) : Prop :=
  match i with
  | .remain _ => s.remaining < 2 ^ s.xlen ∧ t = s.setCnt s.remaining
  | .hasrem n => t = s.setFlg (s.hasRemaining n)
  | .rdbit _ | .rdbits _ | .rdbitss _ => ∃ n v, n ≤ s.remaining ∧ t = (s.advance n).setRead (some v)
  | .trybit _ | .trybits _ | .trybitss _ => ∃ n r, n ≤ s.remaining ∧ t = (s.advance n).setRead r
  | .findsub _
  | .code0 | .code1 | .code2 | .code3 | .code4 | .code5 | .code6 | .code7 | .code8 | .code9 | .code10 | .code11
  | .code12 | .code13 | .code14 | .code15 =>
    ∃ n c, n ≤ s.remaining ∧ c ≤ 8 ∧ t = (s.advance n).setSub (BitVec.ofNat _ c)
  | .lsplbr _ | .lspnb _ | .lspLbrRecord _ _ _ | .lspNbRecord _ _ _ _ _ =>
    ∃ n r, n ≤ s.remaining ∧ t = (s.advance n).setLsp r
  | .skip _ | .f1Clear | .f1Set | .f2Clear | .f2Set | .f3Clear | .f3Set
  | .wbtag0 | .wbtag1 | .wbtag2 | .wbtag3 | .wbtag4 | .wbtag5 | .wbtag6 | .wbtag7 =>
    ∃ n, n ≤ s.remaining ∧ t = s.advance n
  | .load _ | .reservedD _ | .reservedE _ | .reservedF _ => False

/-- A procedure raises a fault, or returns in a state that meets `Q`; it never stops the model. -/
def Proc.Meets {α : Type} (p : Proc α) (Q : α → State → Prop) : Prop :=
  (∃ c, p = .raise c) ∨ ∃ a t, p = .done a t ∧ Q a t

theorem Proc.Meets.raise {α : Type} {Q : α → State → Prop} (c : Cause) : (Proc.raise c : Proc α).Meets Q :=
  .inl ⟨c, rfl⟩

theorem Proc.Meets.done {α : Type} {Q : α → State → Prop} {a : α} {t : State} (h : Q a t) :
    (Proc.done a t).Meets Q :=
  .inr ⟨a, t, rfl, h⟩

/-- One procedure after another. -/
theorem Proc.Meets.andThen {α β : Type} {p : Proc α} {k : α → State → Proc β} {Q : α → State → Prop}
    {R : β → State → Prop} (h : p.Meets Q) (hk : ∀ a t, Q a t → (k a t).Meets R) : (p.andThen k).Meets R := by
  rcases h with ⟨c, rfl⟩ | ⟨a, t, rfl, hQ⟩
  · exact Proc.Meets.raise c
  · exact hk a t hQ

/-- What a state that meets `Q` meets beside it. -/
theorem Proc.Meets.mono {α : Type} {p : Proc α} {Q R : α → State → Prop} (h : p.Meets Q)
    (hQ : ∀ a t, Q a t → R a t) : p.Meets R := by
  rcases h with ⟨c, rfl⟩ | ⟨a, t, rfl, hq⟩
  · exact Proc.Meets.raise c
  · exact Proc.Meets.done (hQ a t hq)

/-- The cursor has moved forward within what remained at `s`, and nothing else has changed. -/
def State.Moved (s t : State) : Prop := ∃ n, n ≤ s.remaining ∧ t = s.advance n

theorem State.Moved.refl (s : State) : s.Moved s := ⟨0, Nat.zero_le _, s.advance_zero.symm⟩

theorem State.Moved.trans {s t u : State} (h : s.Moved t) (h' : t.Moved u) : s.Moved u := by
  obtain ⟨m, hm, rfl⟩ := h
  obtain ⟨n, hn, rfl⟩ := h'
  rw [State.remaining_advance] at hn
  exact ⟨m + n, by omega, s.advance_advance m n⟩

theorem State.readBit_meets (s : State) : s.readBit.Meets fun _ t => s.Moved t := by
  rcases s.readBit_cases with ⟨-, h⟩ | ⟨hr, b, -, h⟩ <;> rw [h]
  · exact Proc.Meets.raise _
  · exact Proc.Meets.done ⟨1, hr, rfl⟩

theorem State.readBits_meets (s : State) (n : Nat) : (s.readBits n).Meets fun _ t => s.Moved t := by
  rcases Nat.lt_or_ge 32 n with hn | hn
  · rw [State.readBits_wide hn]; exact Proc.Meets.raise _
  · rcases s.readBits_cases hn with ⟨-, h⟩ | ⟨hr, h⟩ <;> rw [h]
    · exact Proc.Meets.raise _
    · exact Proc.Meets.done ⟨n, hr, rfl⟩

theorem State.checkSignedWidth_meets (s : State) (n : Nat) :
    (s.checkSignedWidth n).Meets fun _ t => t = s := by
  unfold State.checkSignedWidth
  split
  · exact Proc.Meets.raise _
  · split
    · exact Proc.Meets.raise _
    · exact Proc.Meets.done rfl

theorem State.checkWidth_meets (s : State) (n : Nat) : (s.checkWidth n).Meets fun _ t => t = s := by
  unfold State.checkWidth
  split
  · exact Proc.Meets.raise _
  · exact Proc.Meets.done rfl

theorem State.readBitsSigned_meets (s : State) (n : Nat) : (s.readBitsSigned n).Meets fun _ t => s.Moved t :=
  (s.checkSignedWidth_meets n).andThen fun _ t ht =>
    (t.readBits_meets n).andThen fun _ _ hu => Proc.Meets.done (ht ▸ hu)

theorem State.tryReadBit_meets (s : State) : s.tryReadBit.Meets fun _ t => s.Moved t := by
  unfold State.tryReadBit
  split
  · exact s.readBit_meets.andThen fun _ _ h => Proc.Meets.done h
  · exact Proc.Meets.done (.refl s)

theorem State.tryReadBits_meets (s : State) (n : Nat) : (s.tryReadBits n).Meets fun _ t => s.Moved t := by
  refine (s.checkWidth_meets n).andThen fun _ t ht => ?_
  subst ht
  split
  · exact (t.readBits_meets n).andThen fun _ _ h => Proc.Meets.done h
  · exact Proc.Meets.done (.refl t)

theorem State.tryReadBitsSigned_meets (s : State) (n : Nat) :
    (s.tryReadBitsSigned n).Meets fun _ t => s.Moved t := by
  refine (s.checkSignedWidth_meets n).andThen fun _ t ht => ?_
  subst ht
  split
  · exact (t.readBitsSigned_meets n).andThen fun _ _ h => Proc.Meets.done h
  · exact Proc.Meets.done (.refl t)

theorem State.skipBits_meets (s : State) (n : Nat) : (s.skipBits n).Meets fun _ t => s.Moved t := by
  rcases s.skipBits_cases n with ⟨-, h⟩ | ⟨hr, h⟩ <;> rw [h]
  · exact Proc.Meets.raise _
  · exact Proc.Meets.done ⟨n, hr, rfl⟩

theorem State.requireBits_meets (s : State) (n : Nat) (c : Cause) :
    (s.requireBits n c).Meets fun _ t => s.Moved t := by
  rcases s.requireBits_cases n c with ⟨-, h⟩ | ⟨-, h⟩ <;> rw [h]
  · exact Proc.Meets.raise _
  · exact Proc.Meets.done (.refl s)

theorem State.skipLayer_meets (s : State) (table : Tag → Nat) : (s.skipLayer table).Meets fun _ t => s.Moved t :=
  (s.readBits_meets _).andThen fun _ t ht =>
    (t.skipBits_meets _).mono fun _ _ hu => ht.trans hu

theorem State.secondLayer_meets (s : State) (table : Tag → Nat) (f2 : Bool) :
    (s.secondLayer table f2).Meets fun _ t => s.Moved t := by
  cases f2
  · exact Proc.Meets.done (.refl s)
  · refine (s.skipLayer_meets table).andThen fun _ t ht => t.readBit_meets.andThen fun f3 u hu => ?_
    cases f3
    · exact Proc.Meets.done (ht.trans hu)
    · exact Proc.Meets.raise _

theorem State.firstLayer_meets (s : State) (table : Tag → Nat) (f1 : Bool) :
    (s.firstLayer table f1).Meets fun _ t => s.Moved t := by
  cases f1
  · exact Proc.Meets.done (.refl s)
  · exact (s.skipLayer_meets table).andThen fun _ t ht =>
      (t.requireBits_meets _ _).andThen fun _ u hu =>
        u.readBit_meets.andThen fun f2 v hv =>
          (v.secondLayer_meets table f2).mono fun _ _ hw => ((ht.trans hu).trans hv).trans hw

/-- Where a selector's outcome leaves the block: past the selector, a legal code in `SUB` (R75, R147). -/
def State.Selected (s t : State) : Prop :=
  ∃ n c, n ≤ s.remaining ∧ c ≤ 8 ∧ t = (s.advance n).setSub (BitVec.ofNat _ c)

theorem State.selectSubmode_meets {s u : State} (h : s.Moved u) (c : Nat) :
    (u.selectSubmode c).Meets fun _ t => s.Selected t := by
  obtain ⟨n, hn, rfl⟩ := h
  rcases (s.advance n).selectSubmode_cases c with ⟨hc, h⟩ | ⟨-, cause, h⟩ <;> rw [h]
  · exact Proc.Meets.done ⟨n, c, hn, hc, rfl⟩
  · exact Proc.Meets.raise _

theorem State.findSubmode_meets (s : State) (table : Tag → Nat) :
    (s.findSubmode table).Meets fun _ t => s.Selected t :=
  (s.requireBits_meets _ _).andThen fun _ t ht =>
    t.readBit_meets.andThen fun f1 u hu =>
      (u.firstLayer_meets table f1).andThen fun _ v hv =>
        (v.tryReadBits_meets _).andThen fun r w hw => by
          cases r
          · exact Proc.Meets.raise _
          · exact State.selectSubmode_meets (((ht.trans hu).trans hv).trans hw) _

theorem State.takeFlag_meets (s : State) : s.takeFlag.Meets fun _ t => s.Moved t :=
  (s.requireBits_meets _ _).andThen fun _ t ht =>
    (t.skipBits_meets _).mono fun _ _ hu => ht.trans hu

theorem State.takeThirdFlag_meets (s : State) (f3 : Bool) : (s.takeThirdFlag f3).Meets fun _ t => s.Moved t := by
  refine (s.skipBits_meets _).andThen fun _ t ht => ?_
  cases f3
  · exact Proc.Meets.done ht
  · exact Proc.Meets.raise _

theorem State.takeTag_meets (s : State) (table : Tag → Nat) (tag : Tag) :
    (s.takeTag table tag).Meets fun _ t => s.Moved t :=
  (s.skipBits_meets _).andThen fun _ t ht =>
    (t.skipBits_meets _).mono fun _ _ hu => ht.trans hu

theorem State.takeCode_meets (s : State) (c : Nat) : (s.takeCode c).Meets fun _ t => s.Selected t :=
  (s.requireBits_meets _ _).andThen fun _ t ht =>
    (t.skipBits_meets _).andThen fun _ _ hu => State.selectSubmode_meets (ht.trans hu) c

theorem State.readIndex_meets (s : State) : s.readIndex.Meets fun _ t => s.Moved t :=
  (s.readBits_meets _).andThen fun _ _ h => Proc.Meets.done h

/-- Writing the LSP file after moving. -/
theorem State.setLsp_meets {s u : State} (h : s.Moved u) (r : Vector LspIndex 5) :
    (Proc.done () (u.setLsp r)).Meets fun _ t => ∃ n r, n ≤ s.remaining ∧ t = (s.advance n).setLsp r := by
  obtain ⟨n, hn, rfl⟩ := h
  exact Proc.Meets.done ⟨n, r, hn, rfl⟩

/-- Writing `RES` and `VLD` after moving. -/
theorem State.setRead_meets {s u : State} (h : s.Moved u) (r : Option Result) :
    (Proc.done () (u.setRead r)).Meets fun _ t => ∃ n r, n ≤ s.remaining ∧ t = (s.advance n).setRead r := by
  obtain ⟨n, hn, rfl⟩ := h
  exact Proc.Meets.done ⟨n, r, hn, rfl⟩

theorem State.setValue_meets {s u : State} (h : s.Moved u) (v : Result) :
    (Proc.done () (u.setRead (some v))).Meets fun _ t =>
      ∃ n v, n ≤ s.remaining ∧ t = (s.advance n).setRead (some v) := by
  obtain ⟨n, hn, rfl⟩ := h
  exact Proc.Meets.done ⟨n, v, hn, rfl⟩

theorem State.countRemaining_meets (s : State) :
    s.countRemaining.Meets fun _ t => s.remaining < 2 ^ s.xlen ∧ t = s.setCnt s.remaining := by
  unfold State.countRemaining
  split
  · exact Proc.Meets.raise _
  · next h => exact Proc.Meets.done ⟨Nat.not_le.mp h, rfl⟩

/-- An unfaulted command whose pseudocode meets `Q` takes a fault or answers a state that meets `Q`. -/
theorem State.command_meets {s : State} {p : State → Proc Unit} {Q : State → Prop} (hf : s.fault = false)
    (h : (p s).Meets fun _ t => Q t) :
    (∃ c, s.command p = .next (s.takeFault c)) ∨ ∃ t, s.command p = .next t ∧ Q t := by
  rcases h with ⟨c, h⟩ | ⟨_, t, h, hQ⟩
  · exact .inl ⟨c, State.command_raise hf h⟩
  · exact .inr ⟨t, State.command_done hf h, hQ⟩

/-- Every instruction but `LOAD` is a command behind the test of `FAULT` (R109). -/
theorem exec_is_command {i : Instr} (hl : ∀ n, i ≠ .load n) : ∃ p, ∀ s, exec i s = s.command p := by
  cases i
  case load n => exact absurd rfl (hl n)
  all_goals
    dsimp only [exec, execRemain, execHasrem, execRdbit, execRdbits, execRdbitss, execTrybit, execTrybits,
      execTrybitss, execSkip, execFindsub, execLsplbr, execLspnb, execReservedD, execReservedE, execReservedF,
      execF1Clear, execF1Set, execF2Clear, execF2Set, execF3Clear, execF3Set, execWbtag0, execWbtag1, execWbtag2,
      execWbtag3, execWbtag4, execWbtag5, execWbtag6, execWbtag7, execCode0, execCode1, execCode2, execCode3,
      execCode4, execCode5, execCode6, execCode7, execCode8, execCode9, execCode10, execCode11, execCode12,
      execCode13, execCode14, execCode15, execLspLbrRecord, execLspNbRecord]
    exact ⟨_, fun _ => rfl⟩

/-- Everything an instruction other than `LOAD` can do from an unfaulted state. -/
theorem exec_effect {i : Instr} {s : State} (hf : s.fault = false) (hl : ∀ n, i ≠ .load n) :
    (∃ c, exec i s = .next (s.takeFault c)) ∨ ∃ t, exec i s = .next t ∧ Effect i s t := by
  cases i
  case load n => exact absurd rfl (hl n)
  all_goals
    dsimp only [exec, execRemain, execHasrem, execRdbit, execRdbits, execRdbitss, execTrybit, execTrybits,
      execTrybitss, execSkip, execFindsub, execLsplbr, execLspnb, execReservedD, execReservedE, execReservedF,
      execF1Clear, execF1Set, execF2Clear, execF2Set, execF3Clear, execF3Set, execWbtag0, execWbtag1, execWbtag2,
      execWbtag3, execWbtag4, execWbtag5, execWbtag6, execWbtag7, execCode0, execCode1, execCode2, execCode3,
      execCode4, execCode5, execCode6, execCode7, execCode8, execCode9, execCode10, execCode11, execCode12,
      execCode13, execCode14, execCode15, execLspLbrRecord, execLspNbRecord]
    refine State.command_meets hf ?_
  case remain => exact s.countRemaining_meets
  case hasrem => exact Proc.Meets.done rfl
  case rdbit => exact s.readBit_meets.andThen fun _ _ h => State.setValue_meets h _
  case rdbits => exact (s.readBits_meets _).andThen fun _ _ h => State.setValue_meets h _
  case rdbitss => exact (s.readBitsSigned_meets _).andThen fun _ _ h => State.setValue_meets h _
  case trybit => exact s.tryReadBit_meets.andThen fun _ _ h => State.setRead_meets h _
  case trybits => exact (s.tryReadBits_meets _).andThen fun _ _ h => State.setRead_meets h _
  case trybitss => exact (s.tryReadBitsSigned_meets _).andThen fun _ _ h => State.setRead_meets h _
  case skip => exact s.skipBits_meets _
  case findsub => exact s.findSubmode_meets _
  case lsplbr =>
    exact s.readIndex_meets.andThen fun _ t ht => t.readIndex_meets.andThen fun _ u hu =>
      u.readIndex_meets.andThen fun _ _ hv => State.setLsp_meets ((ht.trans hu).trans hv) _
  case lspnb =>
    exact s.readIndex_meets.andThen fun _ t ht => t.readIndex_meets.andThen fun _ u hu =>
      u.readIndex_meets.andThen fun _ v hv => v.readIndex_meets.andThen fun _ w hw =>
        w.readIndex_meets.andThen fun _ _ hx =>
          State.setLsp_meets ((((ht.trans hu).trans hv).trans hw).trans hx) _
  case lspLbrRecord => exact (s.skipBits_meets _).andThen fun _ _ h => State.setLsp_meets h _
  case lspNbRecord => exact (s.skipBits_meets _).andThen fun _ _ h => State.setLsp_meets h _
  case reservedD | reservedE | reservedF => exact Proc.Meets.raise _
  case f1Clear | f1Set | f2Clear | f2Set => exact s.takeFlag_meets
  case f3Clear | f3Set => exact s.takeThirdFlag_meets _
  case wbtag0 | wbtag1 | wbtag2 | wbtag3 | wbtag4 | wbtag5 | wbtag6 | wbtag7 => exact s.takeTag_meets _ _
  all_goals exact s.takeCode_meets _

end Sys2Proof.Machine
end

