-- ==== Sys2Proof/Laws/Memory.lean ====
section
/-! SUPPORT. The buffer as cells: binding a buffer gives the canonical form, and reading it gives the bytes bound. -/

namespace Sys2Proof.Machine

/-- The cells laid out from `a` on stand at `a` or above and below `a + n`. -/
theorem Memory.layout_addr (bytes : List Byte) (a n : Nat) :
    ∀ c ∈ Memory.layout a n bytes, a ≤ c.1 ∧ c.1 < a + n := by
  induction bytes generalizing a n with
  | nil => simp [Memory.layout]
  | cons v rest ih =>
    intro c hc
    unfold Memory.layout at hc
    split at hc
    · simp at hc
    · split at hc
      · have := ih _ _ _ hc; omega
      · rcases List.mem_cons.mp hc with rfl | hc
        · exact ⟨by simp, by simp; omega⟩
        · have := ih _ _ _ hc; omega

/-- A non-zero cell below every cell of a canonical list extends it. -/
theorem Memory.wf_cons {a : Nat} {v : Byte} {cells : List Host.Cell} (hv : v ≠ 0)
    (hlt : ∀ c ∈ cells, a < c.1) (h : Memory.wf cells = true) : Memory.wf ((a, v) :: cells) = true := by
  cases cells with
  | nil => simpa [Memory.wf] using hv
  | cons c rest => simpa [Memory.wf, hlt c (by simp), h] using hv

/-- Laying bytes out gives the canonical form. -/
theorem Memory.layout_wf (bytes : List Byte) (a n : Nat) : Memory.wf (Memory.layout a n bytes) = true := by
  induction bytes generalizing a n with
  | nil => rfl
  | cons v rest ih =>
    unfold Memory.layout
    split
    · rfl
    · split
      · exact ih _ _
      · next hv =>
        exact Memory.wf_cons hv (fun c hc => (Memory.layout_addr rest (a + 1) (n - 1) c hc).1) (ih _ _)

/-- Binding a buffer gives the canonical form (log 8). -/
theorem Memory.ofBytes_wf (n : Nat) (bytes : List Byte) : Memory.wf (Memory.ofBytes n bytes) = true :=
  Memory.layout_wf bytes 0 n

/-- Every cell of a bound buffer stands below its length. -/
theorem Memory.ofBytes_addr (n : Nat) (bytes : List Byte) : ∀ c ∈ Memory.ofBytes n bytes, c.1 < n := by
  intro c hc
  have := (Memory.layout_addr bytes 0 n c hc).2
  omega

/-- Nothing is listed below the first address of a layout. -/
theorem Memory.read_of_lt {cells : List Host.Cell} {a : Nat} (h : ∀ c ∈ cells, a < c.1) :
    Memory.read cells a = 0 := by
  induction cells with
  | nil => rfl
  | cons c rest ih =>
    have hc := h c (by simp)
    unfold Memory.read
    rw [if_neg (by omega)]
    exact ih fun d hd => h d (by simp [hd])

/-- Reading a layout gives the byte laid out there. -/
theorem Memory.read_layout (bytes : List Byte) (a n i : Nat) (hi : i < n) :
    Memory.read (Memory.layout a n bytes) (a + i) = bytes.getD i 0 := by
  induction bytes generalizing a n i with
  | nil => rfl
  | cons v rest ih =>
    unfold Memory.layout
    rw [if_neg (by omega)]
    cases i with
    | zero =>
      have above : ∀ c ∈ Memory.layout (a + 1) (n - 1) rest, a < c.1 := fun c hc =>
        (Memory.layout_addr rest (a + 1) (n - 1) c hc).1
      split
      · next hv => simpa [hv] using Memory.read_of_lt above
      · simp [Memory.read]
    | succ i =>
      have hrest := ih (a + 1) (n - 1) i (by omega)
      rw [show a + 1 + i = a + (i + 1) by omega] at hrest
      split
      · simpa using hrest
      · simpa [Memory.read] using hrest

/-- Reading a bound buffer below its length gives the byte bound there (R110). -/
theorem Memory.read_ofBytes {n i : Nat} (bytes : List Byte) (hi : i < n) :
    Memory.read (Memory.ofBytes n bytes) i = bytes.getD i 0 := by
  simpa [Memory.ofBytes] using Memory.read_layout bytes 0 n i hi

end Sys2Proof.Machine
end

