-- ==== Sys2Proof/Laws/PerInstr.lean ====
section
/-! SUPPORT. Statements made once per constructor of `Instr`, about the instruction as text of the host or the stream. -/

namespace Sys2Proof.Laws.EncodeFits

/-- For every `XLEN`, the numeral of an instruction that is well-formed there is a value of its format's width (00_scope.md
R7, R8, 30_encoding.md R70, R84). -/
def Statement (i : Instr) : Prop := ∀ xlen, i.wf xlen = true → encode xlen i < 2 ^ i.format.width xlen

/-- A command word is a value of XLEN+4 bits. -/
theorem commandNumeral_lt {xlen n : Nat} (op : BitVec 4) (h : n < 2 ^ xlen) :
    commandNumeral xlen op n < 2 ^ (xlen + 4) := by
  have hop := op.isLt
  have : (op.toNat + 1) * 2 ^ xlen ≤ 2 ^ 4 * 2 ^ xlen := Nat.mul_le_mul_right _ hop
  rw [Nat.add_mul, Nat.one_mul] at this
  rw [commandNumeral, Nat.pow_add, Nat.mul_comm (2 ^ xlen)]
  omega

/-- A number a field can hold is below two to the field's width. -/
theorem fieldNumeral_lt (k : FieldKind) (v : Nat) (h : k.fits v = true) : v < 2 ^ k.width :=
  of_decide_eq_true h

theorem load (n : Nat) : Statement (.load n) :=
  fun _ h => commandNumeral_lt _ (of_decide_eq_true h)
theorem remain (n : Nat) : Statement (.remain n) :=
  fun _ h => commandNumeral_lt _ (of_decide_eq_true h)
theorem hasrem (n : Nat) : Statement (.hasrem n) :=
  fun _ h => commandNumeral_lt _ (of_decide_eq_true h)
theorem rdbit (n : Nat) : Statement (.rdbit n) :=
  fun _ h => commandNumeral_lt _ (of_decide_eq_true h)
theorem rdbits (n : Nat) : Statement (.rdbits n) :=
  fun _ h => commandNumeral_lt _ (of_decide_eq_true h)
theorem rdbitss (n : Nat) : Statement (.rdbitss n) :=
  fun _ h => commandNumeral_lt _ (of_decide_eq_true h)
theorem trybit (n : Nat) : Statement (.trybit n) :=
  fun _ h => commandNumeral_lt _ (of_decide_eq_true h)
theorem trybits (n : Nat) : Statement (.trybits n) :=
  fun _ h => commandNumeral_lt _ (of_decide_eq_true h)
theorem trybitss (n : Nat) : Statement (.trybitss n) :=
  fun _ h => commandNumeral_lt _ (of_decide_eq_true h)
theorem skip (n : Nat) : Statement (.skip n) :=
  fun _ h => commandNumeral_lt _ (of_decide_eq_true h)
theorem findsub (n : Nat) : Statement (.findsub n) :=
  fun _ h => commandNumeral_lt _ (of_decide_eq_true h)
theorem lsplbr (n : Nat) : Statement (.lsplbr n) :=
  fun _ h => commandNumeral_lt _ (of_decide_eq_true h)
theorem lspnb (n : Nat) : Statement (.lspnb n) :=
  fun _ h => commandNumeral_lt _ (of_decide_eq_true h)
theorem reservedD (n : Nat) : Statement (.reservedD n) :=
  fun _ h => commandNumeral_lt _ (of_decide_eq_true h)
theorem reservedE (n : Nat) : Statement (.reservedE n) :=
  fun _ h => commandNumeral_lt _ (of_decide_eq_true h)
theorem reservedF (n : Nat) : Statement (.reservedF n) :=
  fun _ h => commandNumeral_lt _ (of_decide_eq_true h)
theorem f1Clear : Statement .f1Clear := fun _ _ => fieldNumeral_lt .flag1 0 rfl
theorem f1Set : Statement .f1Set := fun _ _ => fieldNumeral_lt .flag1 1 rfl
theorem f2Clear : Statement .f2Clear := fun _ _ => fieldNumeral_lt .flag2 0 rfl
theorem f2Set : Statement .f2Set := fun _ _ => fieldNumeral_lt .flag2 1 rfl
theorem f3Clear : Statement .f3Clear := fun _ _ => fieldNumeral_lt .flag3 0 rfl
theorem f3Set : Statement .f3Set := fun _ _ => fieldNumeral_lt .flag3 1 rfl
theorem wbtag0 : Statement .wbtag0 := fun _ _ => fieldNumeral_lt .tag 0 rfl
theorem wbtag1 : Statement .wbtag1 := fun _ _ => fieldNumeral_lt .tag 1 rfl
theorem wbtag2 : Statement .wbtag2 := fun _ _ => fieldNumeral_lt .tag 2 rfl
theorem wbtag3 : Statement .wbtag3 := fun _ _ => fieldNumeral_lt .tag 3 rfl
theorem wbtag4 : Statement .wbtag4 := fun _ _ => fieldNumeral_lt .tag 4 rfl
theorem wbtag5 : Statement .wbtag5 := fun _ _ => fieldNumeral_lt .tag 5 rfl
theorem wbtag6 : Statement .wbtag6 := fun _ _ => fieldNumeral_lt .tag 6 rfl
theorem wbtag7 : Statement .wbtag7 := fun _ _ => fieldNumeral_lt .tag 7 rfl
theorem code0 : Statement .code0 := fun _ _ => fieldNumeral_lt .code 0 rfl
theorem code1 : Statement .code1 := fun _ _ => fieldNumeral_lt .code 1 rfl
theorem code2 : Statement .code2 := fun _ _ => fieldNumeral_lt .code 2 rfl
theorem code3 : Statement .code3 := fun _ _ => fieldNumeral_lt .code 3 rfl
theorem code4 : Statement .code4 := fun _ _ => fieldNumeral_lt .code 4 rfl
theorem code5 : Statement .code5 := fun _ _ => fieldNumeral_lt .code 5 rfl
theorem code6 : Statement .code6 := fun _ _ => fieldNumeral_lt .code 6 rfl
theorem code7 : Statement .code7 := fun _ _ => fieldNumeral_lt .code 7 rfl
theorem code8 : Statement .code8 := fun _ _ => fieldNumeral_lt .code 8 rfl
theorem code9 : Statement .code9 := fun _ _ => fieldNumeral_lt .code 9 rfl
theorem code10 : Statement .code10 := fun _ _ => fieldNumeral_lt .code 10 rfl
theorem code11 : Statement .code11 := fun _ _ => fieldNumeral_lt .code 11 rfl
theorem code12 : Statement .code12 := fun _ _ => fieldNumeral_lt .code 12 rfl
theorem code13 : Statement .code13 := fun _ _ => fieldNumeral_lt .code 13 rfl
theorem code14 : Statement .code14 := fun _ _ => fieldNumeral_lt .code 14 rfl
theorem code15 : Statement .code15 := fun _ _ => fieldNumeral_lt .code 15 rfl
theorem lspLbrRecord (main low high : LspIndex) : Statement (.lspLbrRecord main low high) :=
  fun _ _ => (main ++ low ++ high).isLt
theorem lspNbRecord (main low0 low1 high0 high1 : LspIndex) : Statement (.lspNbRecord main low0 low1 high0 high1) :=
  fun _ _ => (main ++ low0 ++ low1 ++ high0 ++ high1).isLt

end Sys2Proof.Laws.EncodeFits
end

