-- ==== Sys2Proof/Tests/Slice0.lean ====
section
/-! SUPPORT. Tests on fixed values, one step each, with expected results from 95_test_vectors.md (the vector's name stands in
the comment), and a witness for the hypotheses of every statement that has some. The skip tables of the vectors are
arguments of `State.findSubmode`; `FINDSUB` itself is tested with tag 0, the one entry the spec gives. -/

namespace Sys2Proof.Tests

open Sys2Proof.Machine

/-- The example buffer `X`. -/
def bufX : List Byte := [0xB4, 0xE5, 0x0F, 0xF0, 0xAA]

/-- A buffer just loaded, the cursor at a bit of it. -/
def at_ (pos : Nat) (bytes : List Byte) : State :=
  { State.reset.bindBuffer bytes.length bytes with pos := pos }

/-- A buffer of `len` zero bytes, the cursor at a bit of it. -/
def zeros (len : Nat) (pos : Nat) : State :=
  { State.reset with len := len, pos := pos }

/-- A block of width `xlen` with a buffer of `len` zero bytes, the cursor at a bit of it. -/
def wide (xlen len pos : Nat) : State :=
  { State.resetOf xlen with len := len, pos := pos }

/-- A block that faulted in `RDBITS 9` over `[B4]` (vector E1). -/
def faulted : State := (at_ 0 [0xB4]).takeFault .underrun

/-- A state with one request at the port. -/
def asked (r : Request) (s : State) : State := { s with port := [r] }

/-- The next state of an outcome. -/
def nextOf (o : Host.Outcome State Fault Refusal) : Option State :=
  match o with
  | .next t => some t
  | .fault _ => none
  | .refused _ => none

/-- A value after one instruction. -/
def after {α : Type} (i : Instr) (s : State) (f : State → α) : Option α := (nextOf (exec i s)).map f

/-- What a read leaves: `RES`, `VLD`, `POS`, `FAULT`. -/
def reading (s : State) : Nat × Bool × Nat × Bool := (s.res.toNat, s.vld, s.pos, s.fault)

/-- The fault latch: `FAULT`, `CAUSE`. -/
def latch (s : State) : Bool × Nat := (s.fault, s.cause.toNat)

/-- What a header leaves: `SUB`, `POS`, `FAULT`. -/
def heading (s : State) : Nat × Nat × Bool := (s.sub.toNat, s.pos, s.fault)

/-- What an LSP reader leaves: `LSP`, `POS`, `FAULT`. -/
def record (s : State) : List Nat × Nat × Bool := (s.lsp.toList.map BitVec.toNat, s.pos, s.fault)

/-- The tables `Z`, `T` and `R` of 95_test_vectors.md. -/
def tableOf (entries : List Nat) (tag : Tag) : Nat := entries.getD tag.toNat 0
def tableZ : Tag → Nat := tableOf []
def tableT : Tag → Nat := tableOf [0, 5, 12]
def tableR : Tag → Nat := tableOf [0, 32, 108, 188, 348]

/-- A value after the header at bit `pos` of a buffer, by a table of the vectors. -/
def headed {α : Type} (table : Tag → Nat) (pos : Nat) (bytes : List Byte) (f : State → α) : Option α :=
  (nextOf ((at_ pos bytes).command fun s => s.findSubmode table)).map f

/-- What a numeral decodes to in a block of `XLEN = 32`. -/
def read (f : Format) (v : Nat) : Option Instr := (decode 32 f v).toOption

/-! ### Well-formedness -/

theorem test_wf_load : (Instr.load 2).wfWith 32 [0xB4, 0xE5] = true := by decide
theorem test_wf_load_short : (Instr.load 2).wfWith 32 [0xB4] = false := by decide
theorem test_wf_load_long : (Instr.load 0).wfWith 32 [0xB4] = false := by decide
theorem test_wf_no_bytes_elsewhere : (Instr.remain 0).wfWith 32 [0xB4] = false := by decide
theorem test_wf_flag : FieldKind.flag2.fits 1 = true ∧ FieldKind.flag2.fits 2 = false := by decide
theorem test_wf_tag : FieldKind.tag.fits 7 = true ∧ FieldKind.tag.fits 8 = false := by decide
theorem test_wf_code : FieldKind.code.fits 15 = true ∧ FieldKind.code.fits 16 = false := by decide
theorem test_wf_records : FieldKind.lspLbr.fits (2 ^ 18) = false ∧ FieldKind.lspNb.fits (2 ^ 30) = false := by decide

/-! ### Decoding: words written out from 30_encoding.md -/

/-- R84, R85: the opcode is the first hex digit, the operand the other eight. -/
theorem test_decode_cursor_commands :
    [0x000000005, 0x100000000, 0x200000028, 0x3FFFFFFFF, 0x400000016].map (read .cmd) =
      [some (.load 5), some (.remain 0), some (.hasrem 40), some (.rdbit 0xFFFFFFFF), some (.rdbits 22)] ∧
    [0x500000020, 0x600000000, 0x700000021, 0x800000008, 0x9FFFFFFFF].map (read .cmd) =
      [some (.rdbitss 32), some (.trybit 0), some (.trybits 33), some (.trybitss 8), some (.skip 0xFFFFFFFF)] := by decide

theorem test_decode_other_commands :
    [0xA12345678, 0xB00000000, 0xC00000000, 0xD00000000, 0xE00000001, 0xFFFFFFFFF].map (read .cmd) =
      [some (.findsub 0x12345678), some (.lsplbr 0), some (.lspnb 0), some (.reservedD 0), some (.reservedE 1),
        some (.reservedF 0xFFFFFFFF)] := by decide

/-- R84 bit by bit: `RDBITS 22`, opcode `0100`, and `SKIP 2^31`, opcode `1001`. -/
theorem test_decode_command_bits :
    read .cmd 0b010000000000000000000000000000010110 = some (.rdbits 22) ∧
    read .cmd 0b100110000000000000000000000000000000 = some (.skip 0x80000000) := by decide

theorem test_decode_command_too_wide : decode 32 .cmd 0x1000000000 = .error .tooWide := by decide

/-- R71. -/
theorem test_decode_flags :
    [0b0, 0b1].map (read (.field .flag1)) = [some .f1Clear, some .f1Set] ∧
    [0b0, 0b1].map (read (.field .flag2)) = [some .f2Clear, some .f2Set] ∧
    [0b0, 0b1].map (read (.field .flag3)) = [some .f3Clear, some .f3Set] := by decide

/-- R74. -/
theorem test_decode_tags :
    [0b000, 0b001, 0b010, 0b011, 0b100, 0b101, 0b110, 0b111, 0b1000].map (read (.field .tag)) =
      [some .wbtag0, some .wbtag1, some .wbtag2, some .wbtag3, some .wbtag4, some .wbtag5, some .wbtag6, some .wbtag7,
        none] := by decide

/-- R75. -/
theorem test_decode_codes :
    [0b0000, 0b0001, 0b0010, 0b0011, 0b0100, 0b0101, 0b0110, 0b0111].map (read (.field .code)) =
      [some .code0, some .code1, some .code2, some .code3, some .code4, some .code5, some .code6, some .code7] ∧
    [0b1000, 0b1001, 0b1010, 0b1011, 0b1100, 0b1101, 0b1110, 0b1111].map (read (.field .code)) =
      [some .code8, some .code9, some .code10, some .code11, some .code12, some .code13, some .code14, some .code15] := by
  decide

/-- R78, R79, on the records of Q1 and Q2. -/
theorem test_decode_records :
    read (.field .lspLbr) 0b001011000011000100 = some (.lspLbrRecord 11 3 4) ∧
    read (.field .lspNb) 0b111111000000000011111100000000 = some (.lspNbRecord 63 0 3 60 0) := by decide

/-- The encoder on the same words. -/
theorem test_encode : encode 32 (.rdbits 22) = 0x400000016 ∧ encode 32 (.lspLbrRecord 11 3 4) = 0b001011000011000100 ∧
    encode 32 .wbtag6 = 0b110 := by decide

/-- The table's word, and the instruction placed by `withFetchWord` run by the first step after reset. -/
theorem test_table_words :
    decodeTableWord 36 0xC00000000 = some (.lspnb 0) ∧ decodeTableWord 40 0xC00000000 = some (.lspnb 0) ∧
    decodeTableWord 8 7 = some .code7 ∧ decodeTableWord 3 7 = some .wbtag7 := by decide
theorem test_withFetchWord_code :
    (nextOf (step (State.reset.withFetchWord 4 8))).map heading = some (8, 4, false) := by decide
theorem test_withFetchWord_command :
    (nextOf (step (State.reset.withFetchWord 36 0x400000021))).map latch = some (true, 2) := by decide

/-! ### Another width (R7, R84, R111): a block of `XLEN = 16`, its words of 20 bits -/

theorem test_xlen16_words : decode 16 .cmd 0b10010000000000010010 = .ok (.skip 18) ∧
    decode 16 .cmd 0x100000 = .error .tooWide ∧ encode 16 (.rdbits 22) = 0x40016 ∧
    (Instr.skip 0x10000).wf 16 = false := by decide
/-- 2^16 - 1 bits are the most that fit `CNT` there. -/
theorem test_xlen16_remain : after (.remain 0) (wide 16 8192 1) (fun s => (s.cnt, s.fault)) = some (65535, false) ∧
    after (.remain 0) (wide 16 8192 0) latch = some (true, 11) := by decide
theorem test_xlen16_step : (nextOf (step (asked (.command 0x90012 []) (wide 16 8191 0)))).map heading = some (0, 18, false) := by
  decide

/-! ### The assembler (R88) -/

theorem test_asm_load_hex :
    (assembleLine 32 "LOAD [B4 E5] # two bytes".toList).toOption = some (some (.command 0x000000002 [0xB4, 0xE5])) := by decide
theorem test_asm_load_bits :
    (assembleLine 32 ("LOAD ".toList ++ asmQuote :: "1 000 0 0000".toList ++ [asmQuote])).toOption =
      some (some (.command 0x000000002 [0x80, 0x00])) := by decide
theorem test_asm_numbers :
    (assemble 32 ["RDBITS 22".toList, "".toList, "SKIP 0xFFFFFFFF".toList, "FINDSUB".toList]).toOption =
      some [.command 0x400000016 [], .command 0x9FFFFFFFF [], .command 0xA00000000 []] := by decide
theorem test_asm_refuses :
    assembleLine 32 "NOP".toList = .error .unknownMnemonic ∧ assembleLine 32 "REMAIN 3".toList = .error .badOperand ∧
    assembleLine 32 "SKIP 4294967296".toList = .error .tooLarge := by decide

/-! ### The cursor commands -/

/-- E5. -/
theorem test_load : after (.load 1) { at_ 8 bufX with din := [0x08], res := 0xB4, vld := true, cnt := 32, flg := true }
      (fun s => (s.res.toNat, s.vld, s.cnt, s.flg)) = some (0, false, 0, false) ∧
    after (.load 1) { at_ 8 bufX with din := [0x08] } (fun s => (s.pos, s.len, s.buf)) =
      some (0, 1, [(0, 0x08)]) := by decide
/-- E1, step 5: `LOAD` runs on a faulted block. -/
theorem test_load_recovers : after (.load 1) { faulted with din := [0xB4] } latch = some (false, 0) := by decide
/-- H1, H6. -/
theorem test_remain : after (.remain 0) (at_ 3 bufX) (fun s => s.cnt) = some 37 ∧
    after (.remain 0) (zeros 0x1FFFFFFF 0) (fun s => s.cnt) = some 0xFFFFFFF8 := by decide
/-- H7, H8. -/
theorem test_remain_overflow : after (.remain 0) (zeros 0x20000000 0) latch = some (true, 11) ∧
    after (.remain 0) (zeros 0xFFFFFFFF 0xFFFFFFFF) latch = some (true, 11) := by decide
/-- H3. -/
theorem test_hasrem : after (.hasrem 37) (at_ 3 bufX) (fun s => (s.flg, s.pos)) = some (true, 3) ∧
    after (.hasrem 38) (at_ 3 bufX) (fun s => s.flg) = some false := by decide
/-- H8. -/
theorem test_hasrem_large : after (.hasrem 0xFFFFFFFF) (zeros 0xFFFFFFFF 0) (fun s => s.flg) = some true ∧
    after (.hasrem 0xFFFFFFFF) (at_ 3 bufX) (fun s => (s.flg, s.fault)) = some (false, false) := by decide
/-- S1, B9, E3. -/
theorem test_rdbit : [0, 1, 2, 3, 8].map (fun p => after (.rdbit 0xFFFFFFFF) (at_ p bufX) reading) =
    [some (1, true, 1, false), some (0, true, 2, false), some (1, true, 3, false), some (1, true, 4, false),
      some (1, true, 9, false)] := by decide
/-- B1, step 8. -/
theorem test_rdbit_exhausted : after (.rdbit 0) (at_ 40 bufX) latch = some (true, 1) := by decide
/-- B1, B2. -/
theorem test_rdbits : after (.rdbits 7) (at_ 3 bufX) reading = some (0x53, true, 10, false) ∧
    after (.rdbits 32) (at_ 4 bufX) reading = some (0x4E50FF0A, true, 36, false) ∧
    after (.rdbits 0) (at_ 40 bufX) reading = some (0, true, 40, false) := by decide
/-- B5, B6. -/
theorem test_rdbits_faults : after (.rdbits 33) (at_ 0 []) latch = some (true, 2) ∧
    after (.rdbits 4) (at_ 5 [0xB4]) latch = some (true, 1) := by decide
/-- G2, G3, G5. -/
theorem test_rdbitss : after (.rdbitss 31) (at_ 0 [0x80, 0x00, 0x00, 0x02]) reading = some (0xC0000001, true, 31, false) ∧
    after (.rdbitss 1) (at_ 32 [0x7F, 0xFF, 0xFF, 0xFF, 0x80]) reading = some (0xFFFFFFFF, true, 33, false) ∧
    after (.rdbitss 6) (at_ 6 [0x81, 0xFF, 0xC0]) reading = some (0x1F, true, 12, false) := by decide
/-- G9. -/
theorem test_rdbitss_faults : after (.rdbitss 0) (at_ 0 []) latch = some (true, 9) ∧
    after (.rdbitss 40) (at_ 0 []) latch = some (true, 2) := by decide
/-- T3, T1 step 5. -/
theorem test_trybit : after (.trybit 0) (at_ 5 [0xB4]) reading = some (1, true, 6, false) ∧
    after (.trybit 0) { at_ 16 [0xB4, 0xE5] with res := 5, vld := true } reading = some (0, false, 16, false) := by decide
/-- T1, steps 1 to 3. -/
theorem test_trybits : after (.trybits 12) (at_ 0 [0xB4, 0xE5]) reading = some (0xB4E, true, 12, false) ∧
    after (.trybits 5) (at_ 12 [0xB4, 0xE5]) reading = some (0, false, 12, false) ∧
    after (.trybits 4) (at_ 12 [0xB4, 0xE5]) reading = some (5, true, 16, false) := by decide
/-- T1, steps 6 and 8. -/
theorem test_trybits_ends : after (.trybits 0) (at_ 16 [0xB4, 0xE5]) reading = some (0, true, 16, false) ∧
    after (.trybits 33) (at_ 16 [0xB4, 0xE5]) latch = some (true, 2) := by decide
/-- T2. -/
theorem test_trybitss : after (.trybitss 8) (at_ 0 [0xB4]) reading = some (0xFFFFFFB4, true, 8, false) ∧
    after (.trybitss 8) (at_ 8 [0xB4]) reading = some (0, false, 8, false) := by decide
/-- T4. -/
theorem test_trybitss_zero : after (.trybitss 0) (at_ 0 [0xB4]) latch = some (true, 9) := by decide
/-- K3, K5. -/
theorem test_skip : after (.skip 14) (at_ 10 bufX) (fun s => (s.pos, s.nxt, s.avail.toNat, s.cur)) =
      some (24, 4, 8, some 0xF0) ∧
    after (.skip 24) (at_ 0 [0xB4, 0xE5, 0x0F]) (fun s => (s.pos, s.nxt, s.avail.toNat, s.fault)) =
      some (24, 3, 0, false) := by decide
/-- K7, K12. -/
theorem test_skip_past_end : after (.skip 25) (at_ 0 [0xB4, 0xE5, 0x0F]) latch = some (true, 1) ∧
    after (.skip 0xFFFFFFFF) (at_ 0 bufX) latch = some (true, 1) := by decide

/-! ### Frame headers -/

/-- S3, S5. -/
theorem test_findsub : after (.findsub 0) (at_ 0 [0x80, 0x00]) heading = some (0, 9, false) ∧
    after (.findsub 0) (at_ 0 [0x50]) latch = some (true, 5) := by decide
/-- F2, S4. -/
theorem test_findsub_layers : after (.findsub 0) (at_ 0 [0x88, 0x3D]) heading = some (7, 13, false) ∧
    after (.findsub 0) (at_ 0 [0x88, 0x80]) latch = some (true, 4) := by decide
/-- F1. -/
theorem test_header_selectors :
    [0x00, 0x08, 0x10, 0x18, 0x20, 0x28, 0x30, 0x38, 0x40].map (fun b => headed tableZ 0 [b] heading) =
      [some (0, 5, false), some (1, 5, false), some (2, 5, false), some (3, 5, false), some (4, 5, false),
        some (5, 5, false), some (6, 5, false), some (7, 5, false), some (8, 5, false)] ∧
    [0x48, 0x50, 0x58, 0x60, 0x68, 0x70, 0x78].map (fun b => headed tableZ 0 [b] latch) =
      [some (true, 5), some (true, 5), some (true, 5), some (true, 5), some (true, 6), some (true, 7), some (true, 8)] := by
  decide
/-- F3, F4, F6, F14. -/
theorem test_header_skips :
    headed tableZ 0 [0xF1, 0x00] heading = some (2, 9, false) ∧
    headed tableT 0 [0x9F, 0x8C] heading = some (3, 14, false) ∧
    headed tableT 0 [0x9A, 0xD7, 0xFF, 0xA3, 0x30] heading = some (8, 30, false) ∧
    headed tableR 0 [0x9A, 0xAA, 0xAA, 0xAA, 0xA2, 0xFE] heading = some (5, 41, false) := by decide
/-- F9, F17, F18: not on a byte boundary, and to the end of the buffer. -/
theorem test_header_unaligned :
    headed tableZ 3 [0xE3] heading = some (3, 8, false) ∧ headed tableZ 3 [0x11, 0x06] heading = some (6, 16, false) ∧
    headed tableZ 8 [0xA4, 0x83, 0x00] heading = some (6, 17, false) := by decide
/-- Rows 1 to 7 of R143: F8, F10, F11, F13, F15, F7, F16; and F12. -/
theorem test_header_fault_rows :
    headed tableZ 4 [0xF0] latch = some (true, 3) ∧ headed tableT 0 [0xAF] latch = some (true, 1) ∧
    headed tableT 3 [0x13, 0xF0] latch = some (true, 3) ∧ headed tableT 0 [0x8A, 0xFE] latch = some (true, 1) ∧
    headed tableT 3 [0x11, 0x3F] latch = some (true, 1) ∧
    headed tableT 0 [0x9A, 0xD7, 0xFF, 0xE0] latch = some (true, 4) ∧
    headed tableZ 4 [0x08, 0x81] latch = some (true, 3) ∧ headed tableZ 0 [0x88] latch = some (true, 3) := by decide

/-! ### Fields and records -/

/-- R141 steps 1 and 2b: 5 bits left or 4. -/
theorem test_flag_fields : after .f1Set (at_ 3 [0xF0]) heading = some (0, 4, false) ∧
    after .f2Clear (at_ 4 [0xF0]) latch = some (true, 3) := by decide
theorem test_third_flag : after .f3Clear (at_ 7 [0xF0]) heading = some (0, 8, false) ∧
    after .f3Set (at_ 7 [0xF0]) latch = some (true, 4) := by decide
/-- Table `T`, tag `001`: 3 + 5 bits of a byte, and one fewer. -/
theorem test_tag_field :
    (nextOf ((at_ 8 [0x13, 0xF0]).command fun s => s.takeTag tableT 1)).map heading = some (0, 16, false) ∧
    (nextOf ((at_ 9 [0x13, 0xF0]).command fun s => s.takeTag tableT 1)).map latch = some (true, 1) := by decide
theorem test_code_field : after .code8 (at_ 4 [0xF0]) heading = some (8, 8, false) ∧
    after .code13 (at_ 4 [0xF0]) latch = some (true, 6) := by decide
/-- Q5. -/
theorem test_lsplbr : after (.lsplbr 0) (at_ 3 [0xA5, 0x86, 0x20]) record = some ([11, 3, 4, 0, 0], 21, false) := by decide
/-- Q4. -/
theorem test_lsplbr_short : after (.lsplbr 0) (at_ 0 [0x2C, 0x31]) latch = some (true, 1) := by decide
/-- Q6. -/
theorem test_lspnb : after (.lspnb 0) (at_ 2 [0xFC, 0x00, 0xFC, 0x00]) record = some ([60, 0, 15, 48, 0], 32, false) := by
  decide
/-- Q4. -/
theorem test_lspnb_short : after (.lspnb 0) (at_ 0 [0xFC, 0x00, 0xFC]) latch = some (true, 1) := by decide
/-- Q3: the two high registers are cleared. -/
theorem test_lbr_record :
    after (.lspLbrRecord 11 3 4) { at_ 32 [0xFC, 0x00, 0xFC, 0x00, 0x2C, 0x31, 0x00] with lsp := #v[63, 0, 3, 60, 0] }
      record = some ([11, 3, 4, 0, 0], 50, false) := by decide
/-- Q2: the record taken at the cursor by the model's field request. -/
theorem test_nb_record : (nextOf (runField .lspNb (at_ 0 [0xFC, 0x00, 0xFC, 0x00]))).map record =
    some ([63, 0, 3, 60, 0], 30, false) := by decide

/-! ### Faults -/

/-- E2. -/
theorem test_reserved : [Instr.reservedD 0, .reservedE 0xFFFFFFFF, .reservedF 1].map (fun i => after i (at_ 0 bufX) latch) =
    [some (true, 10), some (true, 10), some (true, 10)] := by decide
/-- E1, steps 2 to 4. -/
theorem test_faulted_ignores : [Instr.rdbit 0, .remain 0, .reservedD 0].map (fun i => after i faulted latch) =
    [some (true, 1), some (true, 1), some (true, 1)] := by decide

/-! ### Witnesses: the hypotheses of each statement met together, and its clauses at the ends of their ranges -/

theorem witness_StepKeepsInvariant :
    (asked (.command 0x300000000 []) (at_ 7 [0x01])).Inv ∧
    (nextOf (step (asked (.command 0x300000000 []) (at_ 7 [0x01])))).map reading = some (1, true, 8, false) := by
  refine ⟨?_, by decide⟩
  constructor <;> decide

theorem witness_StepKeepsInvariant_faulted :
    (asked (.command 0x000000001 [0xB4])
      { at_ 0 [0xB4] with fault := true, cause := 1, pos := 99, sub := 15, everFaulted := true }).Inv := by
  constructor <;> decide

/-- The greatest operand of a word, at two widths (the encodings, and the opcode clause of the cursor commands). -/
theorem witness_DecodeOfEncode : (Instr.skip 0xFFFFFFFF).wf 32 = true ∧ (Instr.skip 0xFFFF).wf 16 = true ∧
    (0xFFFFFFFF : Nat) < 2 ^ 32 ∧ (0 : Nat) < 2 ^ 0 := by decide

theorem witness_EncodeOfDecode : read (.field .tag) 0b010 = some .wbtag2 ∧ read .cmd 0x9FFFFFFFF = some (.skip 0xFFFFFFFF) := by
  decide

theorem witness_DecodeIsTotalOnItsWidth :
    7 < 2 ^ (Format.field .tag).width 32 ∧ ¬ 8 < 2 ^ (Format.field .tag).width 32 ∧
    0xFFFFFFFFF < 2 ^ Format.cmd.width 32 ∧ ¬ 0x1000000000 < 2 ^ Format.cmd.width 32 := by decide

theorem witness_AssemblerReadsNumbers :
    ("SKIP".toList, (0x9 : BitVec 4), AsmOperand.number) ∈ asmTable ∧
    Nat.ofDigits 10 ((4 :: [2, 9, 4, 9, 6, 7, 2, 9, (5 : Fin 10)]).map Fin.val).reverse < 2 ^ 32 ∧
    ¬ Nat.ofDigits 10 ((4 :: [2, 9, 4, 9, 6, 7, 2, 9, (6 : Fin 10)]).map Fin.val).reverse < 2 ^ 32 := by decide

/-- A word of 36 bits, and the least numeral that is none. -/
theorem witness_StepRunsTheCommand :
    (asked (.command 0x000000001 [0xB4]) State.reset).port = .command 0x000000001 [0xB4] :: [] ∧
    decode State.reset.xlen .cmd 0xFFFFFFFFF = .ok (.reservedF 0xFFFFFFFF) ∧
    decode State.reset.xlen .cmd 0x1000000000 = .error .tooWide := by decide

theorem witness_EveryStepAnswersNext : (asked (.command 0xFFFFFFFFF []) State.reset).portFits = true ∧
    (asked (.command 0x1000000000 []) State.reset).portFits = false := by decide

theorem witness_XlenIsConstant : after (.rdbit 0) (wide 16 8192 0) (fun s => s.xlen) = some 16 ∧
    (nextOf (step (asked .reset (wide 16 8192 0)))).map (fun s => s.xlen) = some 16 := by decide

/-- A faulted block; 3 bits left and 4 bits left for a selector. -/
theorem witness_StepRunsTheField :
    (asked (.field .code) faulted).port = .field .code :: [] ∧ (asked (.field .code) faulted).fault = true ∧
    (asked (.field .code) (at_ 5 [0xB4])).fault = false ∧
    (asked (.field .code) (at_ 5 [0xB4])).remaining < FieldKind.code.width ∧
    FieldKind.code.width ≤ (asked (.field .code) (at_ 4 [0xB4])).remaining := by decide

theorem witness_StepIdleAndReset : (at_ 3 bufX).port = [] ∧ (asked .reset (at_ 3 bufX)).port = .reset :: [] := ⟨rfl, rfl⟩

theorem witness_FaultedBlockIgnoresCommands : faulted.fault = true ∧ ∀ n, Instr.rdbit 0 ≠ .load n := ⟨rfl, nofun⟩

theorem witness_OnlyLoadOrResetClearsTheFault :
    faulted.fault = true ∧
    (nextOf (step (asked (.command 0x000000001 [0xB4]) faulted))).map latch = some (false, 0) ∧
    (nextOf (step (asked .reset faulted))).map latch = some (false, 0) := by decide

theorem witness_FaultEntryLatchesACause :
    (at_ 8 [0xB4]).fault = false ∧ after (.rdbit 0) (at_ 8 [0xB4]) latch = some (true, 1) := by decide

/-- A marked block that is loaded again, and an unmarked one that faults. -/
theorem witness_FaultMarkSurvivesLoad :
    (nextOf (step (asked (.command 0x000000001 [0xB4]) faulted))).map (fun s => s.everFaulted) = some true ∧
    faulted.everFaulted = true ∧ (asked (.command 0xD00000000 []) (at_ 0 [0xB4])).fault = false ∧
    (nextOf (step (asked (.command 0xD00000000 []) (at_ 0 [0xB4])))).map latch = some (true, 10) := by decide

theorem witness_FaultMarkSurvivesLoad_port :
    ∀ rest, (asked (.command 0xD00000000 []) (at_ 0 [0xB4])).port ≠ .reset :: rest := nofun

theorem witness_not_faulted : (at_ 0 bufX).fault = false := rfl

/-- Inside a byte, at a byte boundary, at the last bit, exhausted, and of an empty buffer. -/
theorem witness_CursorInvariants :
    ((at_ 3 bufX).pos ≤ (at_ 3 bufX).bits ∧ (at_ 3 bufX).avail.toNat = 5 ∧ (at_ 3 bufX).cur = some 0xB4) ∧
    ((at_ 8 bufX).pos ≤ (at_ 8 bufX).bits ∧ (at_ 8 bufX).avail.toNat = 8 ∧ (at_ 8 bufX).cur = some 0xE5) ∧
    ((at_ 39 bufX).pos ≤ (at_ 39 bufX).bits ∧ (at_ 39 bufX).avail.toNat = 1) ∧
    ((at_ 40 bufX).pos ≤ (at_ 40 bufX).bits ∧ (at_ 40 bufX).avail = 0 ∧ (at_ 40 bufX).nxt = 5) ∧
    ((at_ 0 []).pos ≤ (at_ 0 []).bits ∧ (at_ 0 []).avail = 0) := by decide

/-- The largest buffer. -/
theorem witness_RemainingByTheView :
    (zeros 0xFFFFFFFF 0).pos ≤ (zeros 0xFFFFFFFF 0).bits ∧ (zeros 0xFFFFFFFF 0).remaining = 0x7FFFFFFF8 := by decide

theorem witness_SaturatingFormAgrees :
    0xFFFFFFFF < 2 ^ 32 ∧ (zeros 0x1FFFFFFF 0).hasRemaining 0xFFFFFFFF = false ∧
    (zeros 0x20000000 0).hasRemaining 0xFFFFFFFF = true := by decide

/-- For the statements about a command that completes or moves the cursor: `RDBITS 7` at bit 3. -/
theorem witness_CursorOnlyMovesForward :
    after (.rdbits 7) (at_ 3 bufX) (fun s => s.fault) = some false ∧ (at_ 3 bufX).pos ≤ (at_ 3 bufX).bits ∧
    (Instr.rdbits 7).format = .cmd := by decide

theorem witness_CursorOnlyMovesForward_not_load : ∀ n, Instr.rdbits 7 ≠ .load n := nofun

theorem witness_ResultRegistersAreReadByNone :
    after (.trybits 9) { at_ 0 [0xB4] with res := 7, vld := true } reading = some (0, false, 0, false) := by decide

/-- Byte 0 and the last byte of a buffer, a byte of a short list, and the empty buffer. -/
theorem witness_LoadBindsTheBuffer :
    ((0 : Nat) < (5 : Nat) ∧ (4 : Nat) < (5 : Nat)) ∧ bufX.getD 4 0 = 0xAA ∧
    (Instr.load 5).wfWith 32 bufX = true ∧ (5 : Nat) ≠ 0 ∧ (Instr.load 0).wfWith 32 [] = true := by decide

/-- One bit too many for `CNT`, and the most that fits. -/
theorem witness_RemainCounts :
    (zeros 0x20000000 1).fault = false ∧ (zeros 0x20000000 1).remaining = 0xFFFFFFFF ∧
    (zeros 0x20000000 0).remaining = 2 ^ 32 := by decide

/-- One bit left and none. -/
theorem witness_bits_left : (at_ 7 [0x01]).fault = false ∧ (at_ 7 [0x01]).remaining = 1 ∧ (at_ 8 [0x01]).fault = false ∧
    (at_ 8 [0x01]).remaining = 0 := by decide

/-- Widths 33, 32 and 0; 31 bits left, and 32. -/
theorem witness_reads : 32 < (33 : Nat) ∧ ¬ 32 < (32 : Nat) ∧ (0 : Nat) = 0 ∧
    (at_ 9 bufX).remaining < (32 : Nat) ∧ ¬ (at_ 8 bufX).remaining < (32 : Nat) ∧
    (at_ 8 bufX).fault = false ∧ (at_ 9 bufX).fault = false := by decide

/-- Both branches of the sign: bit 0 of `X` is 1, bit 1 is 0. -/
theorem witness_signed : (at_ 0 bufX).bitAt 0 = 1 ∧ (at_ 1 bufX).bitAt 1 = 0 ∧
    (at_ 0 bufX).fieldValue 0 8 = 0xB4 ∧ signed32 0xFFFFFFB4 = -76 := by decide

/-- Into the last byte, to the end, and past it. -/
theorem witness_SkipMovesTheCursor :
    (39 : Nat) < (at_ 0 bufX).remaining ∧ (at_ 0 bufX).remaining = (40 : Nat) ∧
    (at_ 0 bufX).remaining < (41 : Nat) ∧ (at_ 0 bufX).fault = false := by decide

/-- K10, with the bits left exactly used up, and nothing to discard. -/
theorem witness_SkipEqualsReadAndDiscard :
    ((at_ 0 bufX).fault = false ∧ (∀ k ∈ [8, 3, 20], k ≤ 32) ∧ 9 ≤ 32 ∧ [8, 3, 20].sum < 2 ^ 32 ∧
      [8, 3, 20].sum + 9 ≤ (at_ 0 bufX).remaining) ∧
    ([] : List Nat).sum + 0 ≤ (at_ 40 bufX).remaining := by decide

/-- B8, and 32 bits of the last 32. -/
theorem witness_ReadsSplit :
    ((at_ 0 bufX).fault = false ∧ 5 + 7 ≤ 32 ∧ 5 + 7 ≤ (at_ 0 bufX).remaining) ∧
    (0 + 32 ≤ 32 ∧ 0 + 32 ≤ (at_ 8 bufX).remaining) := by decide

/-- The last byte, and the last four. -/
theorem witness_AlignedReadsAreBigEndian :
    ((at_ 32 bufX).fault = false ∧ (at_ 32 bufX).pos % 8 = 0 ∧ (at_ 32 bufX).remaining = 8) ∧
    ((at_ 8 bufX).pos % 8 = 0 ∧ (at_ 8 bufX).remaining = 32) := by decide

/-- The operands where the clauses of R201 meet. -/
theorem witness_CommandsAfterReset : (1 : Nat) ≠ 0 ∧ (1 : Nat) ≤ 32 ∧ (32 : Nat) ≤ 32 ∧
    ¬ (33 : Nat) ≤ 32 := by decide

/-- F9: exactly five bits left, and the largest selector, 8. -/
theorem witness_FindsubPlainHeader :
    ((at_ 3 [0xE3]).fault = false ∧ (at_ 3 [0xE3]).remaining = 5 ∧ (at_ 3 [0xE3]).bitAt 3 = 0 ∧
      (at_ 3 [0xE3]).fieldValue 4 4 = 3) ∧
    ((at_ 0 [0x40]).bitAt 0 = 0 ∧ (at_ 0 [0x40]).fieldValue 1 4 = 8 ∧ 5 ≤ (at_ 0 [0x40]).remaining) := by decide

/-- S3 at bit 7: nine bits left. -/
theorem witness_FindsubOneLayer :
    (at_ 7 [0x01, 0x00]).fault = false ∧ (at_ 7 [0x01, 0x00]).skipAt (Config.wbSkip 32) 8 = 0 ∧
    9 + 0 ≤ (at_ 7 [0x01, 0x00]).remaining ∧ (at_ 7 [0x01, 0x00]).bitAt 7 = 1 ∧ (at_ 7 [0x01, 0x00]).bitAt 11 = 0 ∧
    (at_ 7 [0x01, 0x00]).fieldValue 12 4 = 0 ∧ (at_ 7 [0x01, 0x00]).fieldValue 8 3 = 0 := by decide

/-- F17: thirteen bits left. -/
theorem witness_FindsubTwoLayers :
    (at_ 3 [0x11, 0x06]).fault = false ∧ (at_ 3 [0x11, 0x06]).skipAt (Config.wbSkip 32) 4 = 0 ∧
    (at_ 3 [0x11, 0x06]).skipAt (Config.wbSkip 32) 8 = 0 ∧ 13 + 0 + 0 ≤ (at_ 3 [0x11, 0x06]).remaining ∧
    (at_ 3 [0x11, 0x06]).bitAt 3 = 1 ∧ (at_ 3 [0x11, 0x06]).bitAt 7 = 1 ∧ (at_ 3 [0x11, 0x06]).bitAt 11 = 0 ∧
    (at_ 3 [0x11, 0x06]).fieldValue 12 4 = 6 := by decide

/-- S4 at bit 7: nine bits left. -/
theorem witness_FindsubThirdLayerFaults :
    (at_ 7 [0x01, 0x11]).fault = false ∧ (at_ 7 [0x01, 0x11]).skipAt (Config.wbSkip 32) 8 = 0 ∧
    (at_ 7 [0x01, 0x11]).skipAt (Config.wbSkip 32) 12 = 0 ∧ 9 + 0 + 0 ≤ (at_ 7 [0x01, 0x11]).remaining ∧
    (at_ 7 [0x01, 0x11]).bitAt 7 = 1 ∧ (at_ 7 [0x01, 0x11]).bitAt 11 = 1 ∧ (at_ 7 [0x01, 0x11]).bitAt 15 = 1 := by decide

/-- Selectors 9, 12, 13, 14 and 15 after a clear flag, five bits left. -/
theorem witness_FindsubSelectorFaults :
    (at_ 3 [0x09]).fault = false ∧ (at_ 3 [0x09]).remaining = 5 ∧ (at_ 3 [0x09]).bitAt 3 = 0 ∧
    [0x09, 0x0C, 0x0D, 0x0E, 0x0F].map (fun b => (at_ 3 [b]).fieldValue 4 4) = [9, 12, 13, 14, 15] := by decide

/-- A header in each of the outcomes of R142 and R143, by tables `Z` and `T`. -/
theorem witness_FindsubFollowsTheFaultTable :
    ((at_ 0 [0x88, 0x3D]).headerOutcome tableZ).toOption = some (13, 7) ∧
    (at_ 0 [0xAF]).headerOutcome tableT = .error .underrun ∧ (at_ 3 [0x11, 0x3F]).headerOutcome tableT = .error .underrun ∧
    (at_ 3 [0x13, 0xF0]).headerOutcome tableT = .error .notEnoughBits ∧
    (at_ 4 [0x08, 0x81]).headerOutcome tableZ = .error .notEnoughBits ∧
    (at_ 0 [0x88, 0x80]).headerOutcome tableZ = .error .tooManyWbLayers := by decide

/-- Selector 9 without a layer, five bits left, and after one layer, nine bits left. -/
theorem witness_SelectorIsThereWithoutASecondLayer :
    (after (.findsub 0) (at_ 3 [0x09]) latch = some (true, 5) ∧ (at_ 3 [0x09]).bitAt 3 = 0 ∧ (at_ 3 [0x09]).remaining = 5) ∧
    (after (.findsub 0) (at_ 7 [0x01, 0x09]) latch = some (true, 5) ∧ (at_ 7 [0x01, 0x09]).bitAt 7 = 1 ∧
      (at_ 7 [0x01, 0x09]).skipAt (Config.wbSkip 32) 8 = 0 ∧ (at_ 7 [0x01, 0x09]).remaining = 9 + 0 ∧
      (at_ 7 [0x01, 0x09]).bitAt 11 = 0) := by decide

/-- A buffer that differs after the header. -/
theorem witness_SkippedPayloadIsUnread :
    (at_ 0 [0x08, 0x00]).fault = false ∧
    ∀ k ∈ (at_ 0 [0x08, 0x00]).headerReads (Config.wbSkip 32),
      State.bitAt { at_ 0 [0x08, 0x00] with buf := [(0, 0x0F), (1, 0xFF)] } k = (at_ 0 [0x08, 0x00]).bitAt k := by decide

/-- No layer, one and two. -/
theorem witness_FindsubIsItsFields :
    ((at_ 0 [0x08]).fault = false ∧ (at_ 0 [0x08]).bitAt 0 = 0) ∧
    ((at_ 0 [0x80, 0x00]).skipAt (Config.wbSkip 32) 1 = 0 ∧ (at_ 0 [0x80, 0x00]).bitAt 0 = 1 ∧
      (at_ 0 [0x80, 0x00]).bitAt 4 = 0) ∧
    ((at_ 0 [0x88, 0x3D]).skipAt (Config.wbSkip 32) 1 = 0 ∧ (at_ 0 [0x88, 0x3D]).bitAt 4 = 1) := by decide

/-- Five bits left and four; four and three; eighteen and seventeen; thirty and twenty-nine. -/
theorem witness_fields :
    ((at_ 3 bufX).fault = false ∧ (at_ 35 bufX).remaining = 5 ∧ (at_ 36 bufX).remaining = 4 ∧ (at_ 37 bufX).remaining = 3) ∧
    ((at_ 22 bufX).remaining = 18 ∧ (at_ 23 bufX).remaining = 17 ∧ (at_ 10 bufX).remaining = 30 ∧
      (at_ 11 bufX).remaining = 29) := by decide

theorem witness_field_lists :
    Instr.f2Set ∈ [Instr.f1Clear, .f1Set, .f2Clear, .f2Set] ∧
    (Instr.wbtag0, 0#3) ∈ [(Instr.wbtag0, 0#3), (.wbtag1, 1#3)] ∧ (Instr.code8, 8#4) ∈ [(Instr.code0, 0#4), (.code8, 8#4)] ∧
    (Instr.code15, Cause.nhTerminator) ∈ [(Instr.code14, Cause.nhCodecInband), (.code15, .nhTerminator)] := by decide

/-- A tag of the one entry given, exactly three bits left, and two. -/
theorem witness_TagFieldsSkipTheirLayer :
    3 + Config.wbSkip 32 0 ≤ (at_ 5 [0x00]).remaining ∧ ¬ 3 + Config.wbSkip 32 0 ≤ (at_ 6 [0x00]).remaining := by
  decide

end Sys2Proof.Tests
end

section
/-! The view `NXT`, `AVAIL`, `CUR` of the cursor (10_state.md R24), and what R25 and R26 say of it. -/

namespace Sys2Proof.Machine

/-! ### The view, inside the buffer and past its end -/

theorem State.bits_eq (s : State) : s.bits = 8 * s.len := rfl

theorem State.nxt_of_lt {s : State} (h : s.pos < s.bits) : s.nxt = s.pos / 8 + 1 := if_pos h

theorem State.nxt_of_exhausted {s : State} (h : s.bits ≤ s.pos) : s.nxt = s.len := if_neg (Nat.not_lt.mpr h)

theorem State.avail_toNat_of_lt {s : State} (h : s.pos < s.bits) : s.avail.toNat = 8 - s.pos % 8 := by
  simp only [State.avail, if_pos h, BitVec.toNat_ofNat, Config.byteW]
  omega

theorem State.avail_of_exhausted {s : State} (h : s.bits ≤ s.pos) : s.avail = 0 := if_neg (Nat.not_lt.mpr h)

theorem State.cur_of_lt {s : State} (h : s.pos < s.bits) : s.cur = some (Memory.read s.buf (s.pos / 8)) := if_pos h

theorem State.avail_le_eight (s : State) : s.avail.toNat ≤ 8 := by
  rcases Nat.lt_or_ge s.pos s.bits with h | h
  · rw [State.avail_toNat_of_lt h]; omega
  · simp [State.avail_of_exhausted h]

/-- `AVAIL = 0` says that the cursor is exhausted: inside the buffer the current byte has a bit left. -/
theorem State.avail_eq_zero_iff (s : State) : s.avail = 0 ↔ s.bits ≤ s.pos := by
  refine ⟨fun h0 => Nat.not_lt.mp fun h => ?_, State.avail_of_exhausted⟩
  have havail := State.avail_toNat_of_lt h
  rw [h0, show (0 : BitVec 4).toNat = 0 from rfl] at havail
  omega

/-- `AVAIL = 8` says that the cursor stands at a byte boundary with a bit left. -/
theorem State.avail_eq_eight_iff (s : State) : s.avail = 8 ↔ s.pos % 8 = 0 ∧ s.pos < s.bits := by
  rcases Nat.lt_or_ge s.pos s.bits with h | h
  · rw [BitVec.toNat_eq, State.avail_toNat_of_lt h, show (8 : BitVec 4).toNat = 8 from rfl]
    omega
  · rw [State.avail_of_exhausted h]
    exact iff_of_false (by decide) (by omega)

/-- R25 (c): past the last bit of byte `k` the whole of byte `k + 1` is there. -/
theorem State.view_at_byte {s : State} {k : Nat} (hp : s.pos = 8 * (k + 1)) (hk : k + 1 < s.len) :
    s.nxt = k + 2 ∧ s.avail = 8 ∧ s.cur = some (Memory.read s.buf (k + 1)) := by
  have h : s.pos < s.bits := by rw [State.bits_eq]; omega
  have hbyte : s.pos / 8 = k + 1 := by omega
  refine ⟨?_, s.avail_eq_eight_iff.mpr ⟨by omega, h⟩, ?_⟩
  · rw [State.nxt_of_lt h, hbyte]
  · rw [State.cur_of_lt h, hbyte]

/-! ### The remaining-bit count -/

/-- R26: the bytes not yet delivered and the bits left in the current one, from any state (past the end both sides
are 0). -/
theorem State.remaining_eq_view (s : State) : s.remaining = 8 * (s.len - s.nxt) + s.avail.toNat := by
  have hbits := s.bits_eq
  rcases Nat.lt_or_ge s.pos s.bits with h | h
  · rw [State.nxt_of_lt h, State.avail_toNat_of_lt h, State.remaining]
    omega
  · simp [State.nxt_of_exhausted h, State.avail_of_exhausted h, State.remaining, Nat.sub_eq_zero_of_le h]

theorem State.remaining_lt {s : State} (h : s.len < 2 ^ s.xlen) : s.remaining < 2 ^ (s.xlen + 3) := by
  rw [State.remaining, State.bits_eq, Nat.pow_add]
  omega

@[simp] theorem State.remaining_bindBuffer (s : State) (n : Nat) (bytes : List Byte) :
    (s.bindBuffer n bytes).remaining = 8 * n := rfl

/-- Settles O21: the longest buffer of `XLEN` bits, just bound, needs all `XLEN + 3` bits. -/
theorem remainingByTheView : Obligations.RemainingByTheView := by
  refine ⟨fun s _ => ⟨s.remaining_eq_view, rfl, State.remaining_lt⟩, fun x hx => ?_⟩
  have hpow : 2 ≤ 2 ^ x := Nat.le_self_pow (by omega) 2
  refine ⟨(State.resetOf x).bindBuffer (2 ^ x - 1) [], rfl, ?_, Nat.zero_le _, ?_⟩
  · rw [State.bindBuffer_len]
    omega
  · rw [State.remaining_bindBuffer, Nat.pow_add]
    omega

/-! ### Where an instruction leaves the cursor -/

/-- A completed effect keeps the buffer and moves the cursor forward by no more than remains (R25 (e), R27). -/
theorem Effect.moves_forward {i : Instr} {s t : State} (h : Effect i s t) :
    t.buf = s.buf ∧ t.len = s.len ∧ ∃ n, n ≤ s.remaining ∧ t.pos = s.pos + n := by
  cases i
  case load | reservedD | reservedE | reservedF => exact h.elim
  case remain =>
    obtain ⟨-, rfl⟩ := h
    exact ⟨rfl, rfl, 0, Nat.zero_le _, rfl⟩
  case hasrem =>
    obtain rfl : t = _ := h
    exact ⟨rfl, rfl, 0, Nat.zero_le _, rfl⟩
  case findsub | code0 | code1 | code2 | code3 | code4 | code5 | code6 | code7 | code8 | code9 | code10 | code11
    | code12 | code13 | code14 | code15 =>
    obtain ⟨n, c, hn, -, rfl⟩ := h
    exact ⟨rfl, rfl, n, hn, rfl⟩
  case rdbit | rdbits | rdbitss | trybit | trybits | trybitss | lsplbr | lspnb | lspLbrRecord | lspNbRecord =>
    obtain ⟨n, r, hn, rfl⟩ := h
    exact ⟨rfl, rfl, n, hn, rfl⟩
  all_goals
    obtain ⟨n, hn, rfl⟩ := h
    exact ⟨rfl, rfl, n, hn, rfl⟩

/-- An instruction other than `LOAD` that ends with `FAULT = 0` began with it and completed. -/
theorem effect_of_exec {i : Instr} {s t : State} (hl : ∀ n, i ≠ .load n) (h : exec i s = .next t)
    (hf : t.fault = false) : s.fault = false ∧ Effect i s t := by
  obtain ⟨p, hp⟩ := exec_is_command hl
  cases hs : s.fault with
  | true =>
    rw [hp, State.command_ignored hs] at h
    cases h
    exact absurd hf (by simp [hs])
  | false =>
    refine ⟨rfl, ?_⟩
    rcases exec_effect hs hl with ⟨c, hc⟩ | ⟨u, hu, he⟩
    · cases hc.symm.trans h
      cases hf
    · cases hu.symm.trans h
      exact he

/-- R25 (e), R27: an instruction other than `LOAD` that does not fault moves the cursor forward within the buffer. -/
theorem exec_moves_forward {i : Instr} {s t : State} (hl : ∀ n, i ≠ .load n) (hp : s.pos ≤ s.bits)
    (h : exec i s = .next t) (hf : t.fault = false) : s.pos ≤ t.pos ∧ t.pos ≤ t.bits := by
  obtain ⟨-, he⟩ := effect_of_exec hl h hf
  obtain ⟨-, hlen, n, hn, hpos⟩ := he.moves_forward
  rw [State.remaining, State.bits_eq] at hn
  rw [State.bits_eq] at hp
  rw [State.bits_eq, hlen, hpos]
  omega

theorem exec_load (n : Nat) (s : State) : exec (.load n) s = .next (s.bindBuffer n s.din) := rfl

/-- R25: an instruction that does not fault leaves the cursor within the buffer, and back only if it is `LOAD`. -/
theorem exec_keeps_cursor {i : Instr} {s t : State} (hp : s.pos ≤ s.bits) (h : exec i s = .next t)
    (hf : t.fault = false) : t.pos ≤ t.bits ∧ ((∀ n, i ≠ .load n) → s.pos ≤ t.pos) := by
  by_cases hl : ∀ n, i ≠ .load n
  · obtain ⟨hle, hin⟩ := exec_moves_forward hl hp h hf
    exact ⟨hin, fun _ => hle⟩
  · refine ⟨?_, fun h' => absurd h' hl⟩
    push Not at hl
    obtain ⟨n, rfl⟩ := hl
    cases h
    exact Nat.zero_le _

/-- R25 (d): the cursor of a buffer just bound, which is not empty, has the whole of its first byte. -/
theorem State.avail_bindBuffer {n : Nat} (hn : n ≠ 0) (s : State) (bytes : List Byte) :
    (s.bindBuffer n bytes).avail = 8 := by
  rw [State.avail_eq_eight_iff, State.bits_eq, State.bindBuffer_pos, State.bindBuffer_len]
  omega

/-- Settles O23: reset, every instruction, `LOAD`, then (a) to (d) of R25 from the view at each place of the cursor. -/
theorem cursorInvariants : Obligations.CursorInvariants := by
  refine ⟨fun _ => Nat.le_refl 0, fun _ _ _ => exec_keeps_cursor, fun n s hn => ?_, fun s hp => ?_⟩
  · exact ⟨_, exec_load n s, Nat.zero_le _, State.avail_bindBuffer hn s s.din⟩
  · have hnxt : s.avail = 0 → s.nxt = s.len := fun h0 => State.nxt_of_exhausted (s.avail_eq_zero_iff.mp h0)
    refine ⟨s.avail_le_eight, hnxt, ?_, ?_, fun k => State.view_at_byte, s.avail_eq_eight_iff⟩
    · rw [and_iff_left_of_imp hnxt, s.avail_eq_zero_iff]
      omega
    · rintro ⟨h0, hlt⟩
      exact Nat.ne_of_lt hlt (hnxt h0)

end Sys2Proof.Machine
end

section
/-! The cursor commands that answer or move: `HASREM`, the three reads and `SKIP` (40_bitcursor.md, part 2). -/

namespace Sys2Proof.Machine

/-! ### Command words -/

/-- R84: the word `OP ‖ N` of an operand of `XLEN` bits is the instruction of its opcode, with that operand. -/
theorem decode_commandNumeral {x n : Nat} (op : BitVec 4) (h : n < 2 ^ x) :
    decode x .cmd (commandNumeral x op n) = .ok (decodeOp op.toNat n) := by
  have hop : commandOp x (commandNumeral x op n) = op.toNat := by
    rw [commandOp, commandNumeral, Nat.shiftRight_eq_div_pow, Nat.mul_comm, Nat.mul_add_div (Nat.two_pow_pos x),
      Nat.div_eq_of_lt h, Nat.add_zero, Nat.mod_eq_of_lt op.isLt]
  have hn : commandN x (commandNumeral x op n) = n := Nat.mul_add_mod_of_lt h
  rw [decode, if_pos (Laws.EncodeFits.commandNumeral_lt op h), decodeCommand, hop, hn]

/-! ### The values read -/

/-- R81: a value of at most 32 bits is its own pattern. -/
theorem zext32_toNat {v n : Nat} (hn : n ≤ 32) (h : v < 2 ^ n) : (zext32 v).toNat = v :=
  Nat.mod_eq_of_lt (h.trans_le (Nat.pow_le_pow_right (by decide) hn))

/-- R82: the pattern of a signed value of `n` bits stands for `v`, less `2^n` where its top bit is 1. -/
theorem signed32_sext32 {v n : Nat} (h0 : n ≠ 0) (hn : n ≤ 32) (h : v < 2 ^ n) :
    signed32 (sext32 v n) = (v : Int) - if v.testBit (n - 1) then 2 ^ n else 0 := by
  obtain ⟨m, rfl⟩ := Nat.exists_eq_succ_of_ne_zero h0
  have hm : 2 ^ m ≤ 2 ^ 31 := Nat.pow_le_pow_right (by decide) (by omega)
  have hpow : 2 ^ (m + 1) = 2 * 2 ^ m := Nat.pow_succ'
  have hcast : (2 : Int) ^ (m + 1) = ((2 ^ (m + 1) : Nat) : Int) := by push_cast; rfl
  simp only [Nat.succ_eq_add_one, Nat.add_sub_cancel, sext32, signed32, Config.resW, hcast, hpow] at h ⊢
  cases htop : v.testBit m with
  | true =>
    have hge := Nat.ge_two_pow_of_testBit htop
    have hlt : v + 2 ^ 32 - 2 * 2 ^ m < 2 ^ 32 := by omega
    rw [if_pos rfl, if_pos rfl, BitVec.toNat_ofNat, Nat.mod_eq_of_lt hlt, if_neg (by omega)]
    omega
  | false =>
    have hlt : v < 2 ^ m := Nat.lt_of_not_ge fun hge => by
      simp [Nat.testBit_of_two_pow_le_and_two_pow_add_one_gt hge (hpow ▸ h)] at htop
    rw [if_neg Bool.false_ne_true, if_neg Bool.false_ne_true, BitVec.toNat_ofNat, Nat.mod_eq_of_lt (by omega),
      if_pos (by omega)]
    omega

/-- R53: the first bit of a field is the most significant one of its value. -/
theorem State.testBit_fieldValue_top (s : State) (p : Nat) {n : Nat} (h0 : n ≠ 0) :
    (s.fieldValue p n).testBit (n - 1) = decide (s.bitAt p = 1) := by
  obtain ⟨m, rfl⟩ := Nat.exists_eq_succ_of_ne_zero h0
  have hone := s.bitAt_le_one p
  rw [Nat.succ_eq_one_add, State.fieldValue_add, State.fieldValue_one, Nat.mul_comm,
    Nat.testBit_two_pow_mul_add _ (s.fieldValue_lt _ _)]
  simp [Nat.mod_eq_of_lt (Nat.lt_succ_of_le hone)]

/-- R82, R104: the integer a signed read of the field at `p` delivers, by the first bit read. -/
theorem State.signed32_sext32_fieldValue (s : State) (p : Nat) {n : Nat} (h0 : n ≠ 0) (hn : n ≤ 32) :
    signed32 (sext32 (s.fieldValue p n) n) = (s.fieldValue p n : Int) - if s.bitAt p = 1 then 2 ^ n else 0 := by
  rw [signed32_sext32 h0 hn (s.fieldValue_lt p n), s.testBit_fieldValue_top p h0]
  simp only [decide_eq_true_eq]

/-! ### The commands' pseudocode, and what each leaves when it completes -/

theorem exec_hasrem (n : Nat) (s : State) :
    exec (.hasrem n) s = s.command fun s => .done () (s.setFlg (s.hasRemaining n)) := rfl

theorem exec_rdbit (n : Nat) (s : State) :
    exec (.rdbit n) s =
      s.command fun s => s.readBit.andThen fun b s => .done () (s.setRead (some (zext32 b.toNat))) := rfl

theorem exec_rdbits (n : Nat) (s : State) :
    exec (.rdbits n) s =
      s.command fun s => (s.readBits n).andThen fun v s => .done () (s.setRead (some (zext32 v))) := rfl

theorem exec_rdbitss (n : Nat) (s : State) :
    exec (.rdbitss n) s =
      s.command fun s => (s.readBitsSigned n).andThen fun v s => .done () (s.setRead (some v)) := rfl

theorem exec_skip (n : Nat) (s : State) : exec (.skip n) s = s.command fun s => s.skipBits n := rfl

section Unfaulted
variable {s : State} (n : Nat) (hf : s.fault = false)
include hf

theorem exec_hasrem_eq : exec (.hasrem n) s = .next (s.setFlg (s.hasRemaining n)) := by
  rw [exec_hasrem]
  exact State.command_done hf rfl

theorem exec_rdbit_eq (h : 1 ≤ s.remaining) :
    exec (.rdbit n) s = .next ((s.advance 1).setRead (some (zext32 (s.bitAt s.pos)))) := by
  obtain ⟨b, hb, hread⟩ := State.readBit_eq h
  rw [exec_rdbit, State.command_done hf (by rw [hread, Proc.done_andThen]), hb]

variable {n}

theorem exec_rdbits_eq (hn : n ≤ 32) (h : n ≤ s.remaining) :
    exec (.rdbits n) s = .next ((s.advance n).setRead (some (zext32 (s.fieldValue s.pos n)))) := by
  rw [exec_rdbits, State.command_done hf (by rw [State.readBits_eq hn h, Proc.done_andThen])]

theorem exec_rdbitss_eq (h0 : n ≠ 0) (hn : n ≤ 32) (h : n ≤ s.remaining) :
    exec (.rdbitss n) s = .next ((s.advance n).setRead (some (sext32 (s.fieldValue s.pos n) n))) := by
  rw [exec_rdbitss, State.command_done hf (by rw [State.readBitsSigned_eq h0 hn h, Proc.done_andThen])]

theorem exec_skip_eq (h : n ≤ s.remaining) : exec (.skip n) s = .next (s.advance n) := by
  rw [exec_skip, State.command_done hf (State.skipBits_eq h)]

/-! ### What each command faults on -/

theorem exec_rdbit_takesFault {c : Cause} (h : s.readBit = .raise c) : TakesFault s c (exec (.rdbit n) s) :=
  State.command_takesFault hf (p := fun s => s.readBit.andThen _) (by rw [h, Proc.raise_andThen])

theorem exec_rdbits_takesFault {c : Cause} (h : s.readBits n = .raise c) : TakesFault s c (exec (.rdbits n) s) :=
  State.command_takesFault hf (p := fun s => (s.readBits n).andThen _) (by rw [h, Proc.raise_andThen])

theorem exec_rdbitss_takesFault {c : Cause} (h : s.readBitsSigned n = .raise c) :
    TakesFault s c (exec (.rdbitss n) s) :=
  State.command_takesFault hf (p := fun s => (s.readBitsSigned n).andThen _) (by rw [h, Proc.raise_andThen])

theorem exec_skip_takesFault {c : Cause} (h : s.skipBits n = .raise c) : TakesFault s c (exec (.skip n) s) :=
  State.command_takesFault hf (p := fun s => s.skipBits n) h

end Unfaulted

/-! ### The commands' statements -/

/-- Settles O30: `HASREM` is one write of `FLG`. -/
theorem hasremAnswers : Obligations.HasremAnswers :=
  ⟨fun _ _ => decode_commandNumeral 2, fun n s hf => ⟨_, exec_hasrem_eq n hf, s.hasRemaining_iff n, rfl⟩⟩

/-- Settles O31: by whether a bit is left. -/
theorem rdbitReadsABit : Obligations.RdbitReadsABit := by
  refine ⟨fun _ _ => decode_commandNumeral 3, fun n s hf => ?_⟩
  split
  · next h =>
    have hbit : s.bitAt s.pos < 2 ^ 1 := Nat.lt_succ_of_le (s.bitAt_le_one s.pos)
    exact ⟨_, exec_rdbit_eq n hf h, zext32_toNat (by decide) hbit, rfl, rfl, s.remaining_advance 1, rfl⟩
  · next h => exact exec_rdbit_takesFault hf (State.readBit_short (Nat.lt_of_not_ge h))

/-- Settles O32: by R114's checks in their order. -/
theorem rdbitsReadsAField : Obligations.RdbitsReadsAField := by
  refine ⟨fun _ _ => decode_commandNumeral 4, fun n s hf => ?_⟩
  split
  · next hwide => exact exec_rdbits_takesFault hf (State.readBits_wide hwide)
  next hn =>
  replace hn : n ≤ 32 := Nat.le_of_not_gt hn
  split
  · next hshort => exact exec_rdbits_takesFault hf (State.readBits_short hn hshort)
  · next h =>
    exact ⟨_, exec_rdbits_eq hf hn (Nat.le_of_not_gt h), zext32_toNat hn (s.fieldValue_lt s.pos n), rfl, rfl,
      s.remaining_advance n, rfl⟩

/-- Settles O33: by R115's checks in their order. -/
theorem rdbitssReadsASignedField : Obligations.RdbitssReadsASignedField := by
  refine ⟨fun _ _ => decode_commandNumeral 5, fun n s hf => ?_⟩
  split
  · next hwide => exact exec_rdbitss_takesFault hf (State.readBitsSigned_wide hwide)
  next hn =>
  replace hn : n ≤ 32 := Nat.le_of_not_gt hn
  split
  · next h0 =>
    subst h0
    exact exec_rdbitss_takesFault hf State.readBitsSigned_zero
  next h0 =>
  split
  · next hshort => exact exec_rdbitss_takesFault hf (State.readBitsSigned_short h0 hn hshort)
  · next h =>
    exact ⟨_, exec_rdbitss_eq hf h0 hn (Nat.le_of_not_gt h), s.signed32_sext32_fieldValue s.pos h0 hn, rfl, rfl,
      s.remaining_advance n, rfl⟩

/-- Settles O37: by whether the stream ends first; the view is that of the place the cursor lands in. -/
theorem skipMovesTheCursor : Obligations.SkipMovesTheCursor := by
  refine ⟨fun _ _ => decode_commandNumeral 9, fun n s hf => ?_⟩
  split
  · next hshort => exact exec_skip_takesFault hf (State.skipBits_short hshort)
  · next h =>
    refine ⟨_, exec_skip_eq hf (Nat.le_of_not_gt h), rfl, s.remaining_advance n, rfl, fun hlt => ?_, fun hend => ?_⟩
    · exact ⟨State.nxt_of_lt hlt, State.avail_toNat_of_lt hlt, State.cur_of_lt hlt⟩
    · exact ⟨State.nxt_of_exhausted hend.ge, State.avail_of_exhausted hend.ge⟩

end Sys2Proof.Machine
end

section
/-! What an instruction, a field request and a step can come to, and what each of them keeps. -/

namespace Sys2Proof.Machine

/-! ### One instruction -/

/-- R174: while `FAULT = 1` an instruction other than `LOAD` changes nothing. -/
theorem exec_ignored {i : Instr} {s : State} (hl : ∀ n, i ≠ .load n) (hf : s.fault = true) : exec i s = .next s := by
  obtain ⟨p, hp⟩ := exec_is_command hl
  rw [hp, State.command_ignored hf]

/-- Everything an instruction that answers a next state can have done. -/
theorem exec_cases {i : Instr} {s t : State} (h : exec i s = .next t) :
    (∃ n, i = .load n ∧ t = s.bindBuffer n s.din) ∨
      (∀ n, i ≠ .load n) ∧
        (s.fault = true ∧ t = s ∨ s.fault = false ∧ ((∃ c, t = s.takeFault c) ∨ Effect i s t)) := by
  by_cases hl : ∀ n, i ≠ .load n
  · refine .inr ⟨hl, ?_⟩
    cases hs : s.fault with
    | true =>
      cases (exec_ignored hl hs).symm.trans h
      exact .inl ⟨rfl, rfl⟩
    | false =>
      refine .inr ⟨rfl, ?_⟩
      rcases exec_effect hs hl with ⟨c, hc⟩ | ⟨u, hu, he⟩
      · cases hc.symm.trans h
        exact .inl ⟨c, rfl⟩
      · cases hu.symm.trans h
        exact .inr he
  · push Not at hl
    obtain ⟨n, rfl⟩ := hl
    cases h
    exact .inl ⟨n, rfl, rfl⟩

/-- A completed effect writes the cursor and the result registers, and nothing else (R36). -/
theorem Effect.frame {i : Instr} {s t : State} (h : Effect i s t) :
    t = { s with pos := t.pos, res := t.res, vld := t.vld, cnt := t.cnt, flg := t.flg, sub := t.sub, lsp := t.lsp } := by
  cases i
  case load | reservedD | reservedE | reservedF => exact h.elim
  case remain =>
    obtain ⟨-, rfl⟩ := h
    rfl
  case hasrem =>
    obtain rfl : t = _ := h
    rfl
  case findsub | code0 | code1 | code2 | code3 | code4 | code5 | code6 | code7 | code8 | code9 | code10 | code11
    | code12 | code13 | code14 | code15 =>
    obtain ⟨n, c, -, -, rfl⟩ := h
    rfl
  case rdbit | rdbits | rdbitss | trybit | trybits | trybitss | lsplbr | lspnb | lspLbrRecord | lspNbRecord =>
    obtain ⟨n, r, -, rfl⟩ := h
    rfl
  all_goals
    obtain ⟨n, -, rfl⟩ := h
    rfl

theorem Effect.fault {i : Instr} {s t : State} (h : Effect i s t) : t.fault = s.fault := by rw [h.frame]

/-! ### One field at the cursor -/

/-- A field's fetch with enough bits left: its value, the cursor unmoved (log 4). -/
theorem State.peekField_eq {s : State} {k : FieldKind} (h : k.width ≤ s.remaining) :
    s.peekField k = .done (s.fieldValue s.pos k.width) s := by
  rw [State.peekField, if_pos ((s.hasRemaining_iff _).mpr h), State.readLoop_eq 0 h, Proc.done_andThen, Nat.zero_mul,
    Nat.zero_add]

theorem State.peekField_short {s : State} {k : FieldKind} (h : s.remaining < k.width) :
    s.peekField k = .raise (shortCause k) := by
  rw [State.peekField, if_neg (by rw [State.hasRemaining_iff]; omega)]

theorem runField_ignored {s : State} (k : FieldKind) (h : s.fault = true) : runField k s = .next s := by
  rw [runField, if_pos h]

theorem runField_short {s : State} {k : FieldKind} (hf : s.fault = false) (h : s.remaining < k.width) :
    runField k s = .next (s.takeFault (shortCause k)) := by
  rw [runField, if_neg (by simp [hf]), State.peekField_short h]

/-- The bits at the cursor are a value of the field. -/
theorem decodeField_fieldValue (s : State) (k : FieldKind) :
    decodeField k (s.fieldValue s.pos k.width) = .ok (decodeFieldValue k (s.fieldValue s.pos k.width)) :=
  if_pos (decide_eq_true (s.fieldValue_lt s.pos k.width))

/-- A field that is there is run as the element its bits are. -/
theorem runField_eq {s : State} {k : FieldKind} (hf : s.fault = false) (h : k.width ≤ s.remaining) :
    runField k s = exec (decodeFieldValue k (s.fieldValue s.pos k.width)) s := by
  rw [runField, if_neg (by simp [hf]), State.peekField_eq h]
  simp only [decodeField_fieldValue]

theorem decodeTag_format (v : Nat) : (decodeTag v).format = .field .tag := by
  unfold decodeTag
  split <;> rfl

theorem decodeCode_format (v : Nat) : (decodeCode v).format = .field .code := by
  unfold decodeCode
  split <;> rfl

/-- R71: the element a field's value is, is of that field's format. -/
theorem decodeFieldValue_format (k : FieldKind) (v : Nat) : (decodeFieldValue k v).format = .field k := by
  cases k
  case tag => exact decodeTag_format v
  case code => exact decodeCode_format v
  case flag1 | flag2 | flag3 =>
    dsimp only [decodeFieldValue]
    split <;> rfl
  case lspLbr | lspNb => rfl

/-- Everything a field request that answers a next state can have done. -/
theorem runField_cases {k : FieldKind} {s t : State} (h : runField k s = .next t) :
    (s.fault = true ∧ t = s) ∨ (s.fault = false ∧ ∃ c, t = s.takeFault c) ∨
      (s.fault = false ∧ ∃ i, i.format = .field k ∧ exec i s = .next t) := by
  cases hf : s.fault with
  | true =>
    rw [runField_ignored k hf] at h
    cases h
    exact .inl ⟨rfl, rfl⟩
  | false =>
    rcases Nat.lt_or_ge s.remaining k.width with hr | hr
    · rw [runField_short hf hr] at h
      cases h
      exact .inr (.inl ⟨rfl, _, rfl⟩)
    · rw [runField_eq hf hr] at h
      exact .inr (.inr ⟨rfl, _, decodeFieldValue_format k _, h⟩)

/-! ### One step -/

section Head
variable {s : State} {rest : List Request}

theorem step_idle (h : s.port = []) : step s = .next s := by
  rw [step, h]

theorem step_reset (h : s.port = .reset :: rest) : step s = .next (State.resetBlock { s with port := rest }) := by
  rw [step, h]

theorem step_command {w : Nat} {bytes : List Byte} {i : Instr} (h : s.port = .command w bytes :: rest)
    (hd : decode s.xlen .cmd w = .ok i) : step s = exec i { s with port := rest, din := bytes } := by
  simp only [step, h, hd]

theorem step_undecodable {w : Nat} {bytes : List Byte} {e : DecodeError} (h : s.port = .command w bytes :: rest)
    (hd : decode s.xlen .cmd w = .error e) : step s = .refused (.undecodable e) := by
  simp only [step, h, hd]

theorem step_field {k : FieldKind} (h : s.port = .field k :: rest) :
    step s = runField k { s with port := rest } := by
  rw [step, h]

end Head

/-- Everything a step that answers a next state can have done. -/
theorem step_cases {s t : State} (h : step s = .next t) :
    (s.port = [] ∧ t = s) ∨
      (∃ rest, s.port = .reset :: rest ∧ t = State.resetBlock { s with port := rest }) ∨
      (∃ w bytes rest i, s.port = .command w bytes :: rest ∧ decode s.xlen .cmd w = .ok i ∧
        exec i { s with port := rest, din := bytes } = .next t) ∨
      ∃ k rest, s.port = .field k :: rest ∧ runField k { s with port := rest } = .next t := by
  match hp : s.port with
  | [] =>
    rw [step_idle hp] at h
    cases h
    exact .inl ⟨rfl, rfl⟩
  | .reset :: rest =>
    rw [step_reset hp] at h
    cases h
    exact .inr (.inl ⟨rest, rfl, rfl⟩)
  | .command w bytes :: rest =>
    cases hd : decode s.xlen .cmd w with
    | ok i =>
      rw [step_command hp hd] at h
      exact .inr (.inr (.inl ⟨w, bytes, rest, i, rfl, hd, h⟩))
    | error e =>
      rw [step_undecodable hp hd] at h
      cases h
  | .field k :: rest =>
    rw [step_field hp] at h
    exact .inr (.inr (.inr ⟨k, rest, rfl, h⟩))

/-- Settles O11: by the decoder's two answers. -/
theorem stepRunsTheCommand : Obligations.StepRunsTheCommand :=
  fun _ _ _ _ hp => ⟨fun _ => step_command hp, fun _ => step_undecodable hp⟩

/-- Settles O12: ignored, short, or fetched and decoded. -/
theorem stepRunsTheField : Obligations.StepRunsTheField := by
  intro s k rest hp
  rw [step_field hp]
  refine ⟨fun hf => runField_ignored k hf, fun hf hr => ?_, fun hf hr => ?_⟩
  · rw [runField_short (s := { s with port := rest }) hf hr]
    exact takesFault_takeFault _ _
  · exact ⟨_, decodeField_fieldValue s k, decodeFieldValue_format k _, runField_eq hf hr⟩

/-- Settles O13. -/
theorem stepIdleAndReset : Obligations.StepIdleAndReset :=
  ⟨fun _ => step_idle, fun _ _ => step_reset⟩

/-! ### No stop, and `XLEN` -/

/-- Settles O14: `LOAD` binds; a faulted block ignores; an unfaulted one faults or completes. -/
theorem everyInstructionAnswersNext : Obligations.EveryInstructionAnswersNext := by
  intro i s
  by_cases hl : ∀ n, i ≠ .load n
  · cases hf : s.fault with
    | true => exact ⟨s, exec_ignored hl hf⟩
    | false =>
      rcases exec_effect hf hl with ⟨c, hc⟩ | ⟨t, ht, -⟩
      · exact ⟨_, hc⟩
      · exact ⟨t, ht⟩
  · push Not at hl
    obtain ⟨n, rfl⟩ := hl
    exact ⟨_, exec_load n s⟩

/-- A field request answers a next state from every state. -/
theorem runField_answers_next (k : FieldKind) (s : State) : ∃ t, runField k s = .next t := by
  cases hf : s.fault with
  | true => exact ⟨s, runField_ignored k hf⟩
  | false =>
    rcases Nat.lt_or_ge s.remaining k.width with hr | hr
    · exact ⟨_, runField_short hf hr⟩
    · rw [runField_eq hf hr]
      exact everyInstructionAnswersNext _ s

/-- Settles O15: a word of `XLEN + 4` bits decodes, and what it decodes to answers. -/
theorem everyStepAnswersNext : Obligations.EveryStepAnswersNext := by
  intro s hfits
  match hp : s.port with
  | [] => exact ⟨s, step_idle hp⟩
  | .reset :: rest => exact ⟨_, step_reset hp⟩
  | .command w bytes :: rest =>
    have hw : w < 2 ^ (s.xlen + 4) := by
      simp only [State.portFits, hp, List.all_cons, Request.fits, Bool.and_eq_true, decide_eq_true_eq] at hfits
      exact hfits.1
    rw [step_command hp (if_pos hw)]
    exact everyInstructionAnswersNext _ _
  | .field k :: rest =>
    rw [step_field hp]
    exact runField_answers_next k _

theorem exec_xlen {i : Instr} {s t : State} (h : exec i s = .next t) : t.xlen = s.xlen := by
  rcases exec_cases h with ⟨n, -, rfl⟩ | ⟨-, ⟨-, rfl⟩ | ⟨-, ⟨c, rfl⟩ | he⟩⟩
  · rfl
  · rfl
  · rfl
  · rw [he.frame]

/-- Settles O4: by what a step can do. -/
theorem xlenIsConstant : Obligations.XlenIsConstant := by
  refine ⟨fun _ _ _ => exec_xlen, fun s t h => ?_⟩
  rcases step_cases h with ⟨-, rfl⟩ | ⟨rest, -, rfl⟩ | ⟨w, bytes, rest, i, -, -, h⟩ | ⟨k, rest, -, h⟩
  · rfl
  · rfl
  · exact (exec_xlen h).trans rfl
  · rcases runField_cases h with ⟨-, rfl⟩ | ⟨-, c, rfl⟩ | ⟨-, i, -, h⟩
    · rfl
    · rfl
    · exact (exec_xlen h).trans rfl

/-! ### Faults -/

theorem Cause.code_legal (c : Cause) : 1 ≤ c.code.toNat ∧ c.code.toNat ≤ 11 := by
  cases c <;> decide

/-- Settles O16. -/
theorem faultedBlockIgnoresCommands : Obligations.FaultedBlockIgnoresCommands :=
  fun _ _ hf hl => exec_ignored hl hf

/-- Settles O17: of what a step can do from a faulted state, only reset and `LOAD` do anything. -/
theorem onlyLoadOrResetClearsTheFault : Obligations.OnlyLoadOrResetClearsTheFault := by
  intro s t hs h ht
  rcases step_cases h with ⟨-, rfl⟩ | ⟨rest, hp, -⟩ | ⟨w, bytes, rest, i, hp, hd, h⟩ | ⟨k, rest, -, h⟩
  · simp [hs] at ht
  · exact .inl ⟨rest, hp⟩
  · rcases exec_cases h with ⟨n, rfl, -⟩ | ⟨hl, -⟩
    · exact .inr ⟨w, bytes, rest, n, hp, hd⟩
    · cases (exec_ignored (s := { s with port := rest, din := bytes }) hl hs).symm.trans h
      simp [hs] at ht
  · cases (runField_ignored k (s := { s with port := rest }) hs).symm.trans h
    simp [hs] at ht

/-- An instruction sets the mark of R209 wherever it takes a fault, and never clears it. -/
theorem exec_marks_fault {i : Instr} {s t : State} (h : exec i s = .next t) :
    (s.everFaulted = true → t.everFaulted = true) ∧ (s.fault = false → t.fault = true → t.everFaulted = true) := by
  rcases exec_cases h with ⟨n, -, rfl⟩ | ⟨-, ⟨hs, rfl⟩ | ⟨hs, ⟨c, rfl⟩ | he⟩⟩
  · exact ⟨id, nofun⟩
  · exact ⟨id, fun h => by simp [hs] at h⟩
  · exact ⟨fun _ => rfl, fun _ _ => rfl⟩
  · refine ⟨fun hm => by rw [he.frame]; exact hm, fun _ ht => ?_⟩
    rw [he.fault, hs] at ht
    cases ht

/-- Settles O19: by what a step other than a reset can do. -/
theorem faultMarkSurvivesLoad : Obligations.FaultMarkSurvivesLoad := by
  intro s t hnr h
  rcases step_cases h with ⟨-, rfl⟩ | ⟨rest, hp, -⟩ | ⟨w, bytes, rest, i, -, -, h⟩ | ⟨k, rest, -, h⟩
  · exact ⟨id, fun hs ht => by simp [hs] at ht⟩
  · exact absurd hp (hnr rest)
  · have hx := exec_marks_fault h
    exact hx
  · rcases runField_cases h with ⟨hs, rfl⟩ | ⟨-, c, rfl⟩ | ⟨-, i, -, h⟩
    · exact ⟨id, fun h0 => absurd (hs.symm.trans h0) (by decide)⟩
    · exact ⟨fun _ => rfl, fun _ _ => rfl⟩
    · have hx := exec_marks_fault h
      exact hx

/-! ### The invariant -/

/-- A buffer of `LEN` bytes has fewer than `2^(XLEN+3)` bits. -/
theorem State.Inv.bits_lt {s : State} (h : s.Inv) : s.bits < 2 ^ (s.xlen + 3) := by
  have hlen := h.lenFits
  rw [State.bits_eq, Nat.pow_add]
  omega

/-- Taking the request at the head of the port, with its bytes. -/
theorem State.Inv.takeRequest {s : State} (h : s.Inv) {r : Request} {rest : List Request} (hp : s.port = r :: rest)
    (bytes : List Byte) : State.Inv { s with port := rest, din := bytes } := by
  have hfits := h.portFits
  simp only [State.portFits, hp, List.all_cons, Bool.and_eq_true] at hfits
  exact { h with portFits := hfits.2 }

theorem State.Inv.takeFault {s : State} (h : s.Inv) (c : Cause) : (s.takeFault c).Inv where
  lenFits := h.lenFits
  posFits := (Config.freePos s.xlen s.fresh).isLt
  cntFits := (Config.freeCnt s.xlen s.fresh).isLt
  portFits := h.portFits
  bufWf := h.bufWf
  bufBelowLen := h.bufBelowLen
  posInBuffer := nofun
  subLegal := nofun
  emptyResult := nofun
  causeClear := nofun
  causeLegal := fun _ => c.code_legal
  faultMarked := fun _ => rfl

theorem State.Inv.bindBuffer {s : State} (h : s.Inv) {n : Nat} (hn : n < 2 ^ s.xlen) (bytes : List Byte) :
    (s.bindBuffer n bytes).Inv where
  lenFits := hn
  posFits := Nat.two_pow_pos _
  cntFits := Nat.two_pow_pos _
  portFits := h.portFits
  bufWf := Memory.ofBytes_wf n bytes
  bufBelowLen := Memory.ofBytes_addr n bytes
  posInBuffer := fun _ => Nat.zero_le _
  subLegal := fun _ => Nat.zero_le _
  emptyResult := fun _ _ => rfl
  causeClear := fun _ => rfl
  causeLegal := nofun
  faultMarked := nofun

theorem State.inv_resetOf (x : Nat) : (State.resetOf x).Inv where
  lenFits := Nat.two_pow_pos _
  posFits := Nat.two_pow_pos _
  cntFits := Nat.two_pow_pos _
  portFits := rfl
  bufWf := rfl
  bufBelowLen := nofun
  posInBuffer := fun _ => Nat.le_refl _
  subLegal := fun _ => Nat.zero_le _
  emptyResult := fun _ _ => rfl
  causeClear := fun _ => rfl
  causeLegal := nofun
  faultMarked := nofun

theorem State.Inv.resetBlock {s : State} (h : s.Inv) : s.resetBlock.Inv :=
  { State.inv_resetOf s.xlen with portFits := h.portFits }

/-- Moving within what remains keeps the cursor within the buffer (R25). -/
theorem State.Inv.advance {s : State} (h : s.Inv) (hf : s.fault = false) {n : Nat} (hn : n ≤ s.remaining) :
    (s.advance n).Inv := by
  have hpos : s.pos + n ≤ s.bits := by
    have := h.posInBuffer hf
    rw [State.remaining] at hn
    omega
  exact { h with posFits := Nat.lt_of_le_of_lt hpos h.bits_lt, posInBuffer := fun _ => hpos }

/-- A value with `VLD = 1`, or the empty result, which is 0 (R28). -/
theorem State.Inv.setRead {s : State} (h : s.Inv) (r : Option Result) : (s.setRead r).Inv :=
  { h with
    emptyResult := fun _ hv => by
      cases r with
      | none => rfl
      | some v => cases hv }

theorem State.Inv.setCnt {s : State} (h : s.Inv) {r : Nat} (hr : r < 2 ^ s.xlen) : (s.setCnt r).Inv :=
  { h with cntFits := hr }

theorem State.Inv.setFlg {s : State} (h : s.Inv) (b : Bool) : (s.setFlg b).Inv := { h with }

theorem State.Inv.setLsp {s : State} (h : s.Inv) (r : Vector LspIndex 5) : (s.setLsp r).Inv := { h with }

theorem State.Inv.setSub {s : State} (h : s.Inv) {c : Nat} (hc : c ≤ 8) : (s.setSub (BitVec.ofNat _ c)).Inv :=
  { h with subLegal := fun _ => (Nat.mod_le c _).trans hc }

/-- A completed effect keeps the invariant. -/
theorem State.Inv.effect {i : Instr} {s t : State} (h : s.Inv) (hf : s.fault = false) (he : Effect i s t) : t.Inv := by
  cases i
  case load | reservedD | reservedE | reservedF => exact he.elim
  case remain =>
    obtain ⟨hr, rfl⟩ := he
    exact h.setCnt hr
  case hasrem =>
    obtain rfl : t = _ := he
    exact h.setFlg _
  case rdbit | rdbits | rdbitss | trybit | trybits | trybitss =>
    obtain ⟨n, r, hn, rfl⟩ := he
    exact (h.advance hf hn).setRead _
  case findsub | code0 | code1 | code2 | code3 | code4 | code5 | code6 | code7 | code8 | code9 | code10 | code11
    | code12 | code13 | code14 | code15 =>
    obtain ⟨n, c, hn, hc, rfl⟩ := he
    exact (h.advance hf hn).setSub hc
  case lsplbr | lspnb | lspLbrRecord | lspNbRecord =>
    obtain ⟨n, r, hn, rfl⟩ := he
    exact (h.advance hf hn).setLsp r
  all_goals
    obtain ⟨n, hn, rfl⟩ := he
    exact h.advance hf hn

/-- An instruction that is well-formed for the block keeps the invariant: `LOAD`'s operand is the new `LEN`. -/
theorem State.Inv.exec {i : Instr} {s t : State} (h : s.Inv) (hw : i.wf s.xlen = true)
    (hx : Machine.exec i s = .next t) : t.Inv := by
  rcases exec_cases hx with ⟨n, rfl, rfl⟩ | ⟨-, ⟨-, rfl⟩ | ⟨hf, ⟨c, rfl⟩ | he⟩⟩
  · exact h.bindBuffer (of_decide_eq_true hw) s.din
  · exact h
  · exact h.takeFault c
  · exact h.effect hf he

theorem decodeOp_operand (op n : Nat) : (decodeOp op n).operand = some n := by
  unfold decodeOp
  split <;> rfl

/-- R84: a decoded command's operand is a value of `XLEN` bits. -/
theorem decodeCommand_wf (x w : Nat) : (decodeCommand x w).wf x = true := by
  simp only [decodeCommand, Instr.wf, decodeOp_operand]
  exact decide_eq_true (Nat.mod_lt w (Nat.two_pow_pos x))

/-- An instruction of a field's format has no operand. -/
theorem wf_of_format_field {i : Instr} {k : FieldKind} (h : i.format = .field k) (x : Nat) : i.wf x = true := by
  cases i
  case load | remain | hasrem | rdbit | rdbits | rdbitss | trybit | trybits | trybitss | skip | findsub | lsplbr | lspnb
    | reservedD | reservedE | reservedF => cases h
  all_goals rfl

theorem eq_of_decode_cmd {x w : Nat} {i : Instr} (h : decode x .cmd w = .ok i) :
    w < 2 ^ (x + 4) ∧ i = decodeCommand x w := by
  simp only [decode] at h
  split at h
  · next hw =>
    cases h
    exact ⟨hw, rfl⟩
  · cases h

theorem wf_of_decode_cmd {x w : Nat} {i : Instr} (h : decode x .cmd w = .ok i) : i.wf x = true := by
  rw [(eq_of_decode_cmd h).2]
  exact decodeCommand_wf x w

/-- Settles O2. -/
theorem resetMeetsInvariant : Obligations.ResetMeetsInvariant := State.inv_resetOf

/-- Settles O3: by what a step can do, each of which keeps the invariant. -/
theorem stepKeepsInvariant : Obligations.StepKeepsInvariant := by
  intro s t h hstep
  rcases step_cases hstep with ⟨-, rfl⟩ | ⟨rest, hp, rfl⟩ | ⟨w, bytes, rest, i, hp, hd, hx⟩ | ⟨k, rest, hp, hx⟩
  · exact h
  · exact (h.takeRequest hp s.din).resetBlock
  · exact (h.takeRequest hp bytes).exec (wf_of_decode_cmd hd) hx
  · have h := h.takeRequest hp s.din
    rcases runField_cases hx with ⟨-, rfl⟩ | ⟨-, c, rfl⟩ | ⟨-, i, hi, hx⟩
    · exact h
    · exact h.takeFault c
    · exact h.exec (wf_of_format_field hi _) hx

end Sys2Proof.Machine
end

section
/-! Decoding and encoding, each the other's inverse (30_encoding.md). -/

namespace Sys2Proof.Machine

/-! ### Command words -/

/-- R85, R86: each opcode's instruction is a command with operand `n`, and its word is `OP ‖ N` again. -/
theorem encode_decodeOp (x n : Nat) {op : Nat} (h : op < 16) :
    (decodeOp op n).format = .cmd ∧ encode x (decodeOp op n) = op * 2 ^ x + n := by
  interval_cases op <;> exact ⟨rfl, rfl⟩

/-- R84: opcode and operand make up the whole of a word of `XLEN + 4` bits. -/
theorem commandOp_commandN {x w : Nat} (h : w < 2 ^ (x + 4)) :
    commandOp x w < 16 ∧ commandOp x w * 2 ^ x + commandN x w = w := by
  have hq : w / 2 ^ x < 16 := Nat.div_lt_of_lt_mul (by rwa [Nat.pow_add] at h)
  rw [commandOp, commandN, Nat.shiftRight_eq_div_pow, Nat.mod_eq_of_lt hq]
  exact ⟨hq, Nat.div_add_mod' w (2 ^ x)⟩

/-! ### Records -/

theorem lspIndexAt_toNat (v lo : Nat) : (lspIndexAt v lo).toNat = v / 2 ^ lo % 2 ^ 6 := by
  rw [lspIndexAt, BitVec.toNat_ofNat, Nat.shiftRight_eq_div_pow]

/-- R53: a concatenation's value, the first part most significant. -/
theorem toNat_append {m n : Nat} (a : BitVec m) (b : BitVec n) : (a ++ b).toNat = a.toNat * 2 ^ n + b.toNat := by
  rw [BitVec.toNat_append, ← Nat.shiftLeft_add_eq_or_of_lt b.isLt, Nat.shiftLeft_eq]

section Record
variable (m a b c d : LspIndex)

theorem encode_lspLbrRecord (x : Nat) :
    encode x (.lspLbrRecord m a b) = (m.toNat * 2 ^ 6 + a.toNat) * 2 ^ 6 + b.toNat := by
  simp only [encode, toNat_append, Config.lspW]

theorem encode_lspNbRecord (x : Nat) :
    encode x (.lspNbRecord m a b c d) =
      (((m.toNat * 2 ^ 6 + a.toNat) * 2 ^ 6 + b.toNat) * 2 ^ 6 + c.toNat) * 2 ^ 6 + d.toNat := by
  simp only [encode, toNat_append, Config.lspW]

/-- R78: the three indices of an Lbr record's numeral. -/
theorem decodeFieldValue_encode_lspLbr (x : Nat) :
    decodeFieldValue .lspLbr (encode x (.lspLbrRecord m a b)) = .lspLbrRecord m a b := by
  have hm := m.isLt
  have ha := a.isLt
  have hb := b.isLt
  simp only [decodeFieldValue, Instr.lspLbrRecord.injEq, BitVec.toNat_eq, lspIndexAt_toNat, encode_lspLbrRecord]
  simp only [Config.lspW] at hm ha hb
  omega

/-- R79: the five indices of an Nb record's numeral. -/
theorem decodeFieldValue_encode_lspNb (x : Nat) :
    decodeFieldValue .lspNb (encode x (.lspNbRecord m a b c d)) = .lspNbRecord m a b c d := by
  have hm := m.isLt
  have ha := a.isLt
  have hb := b.isLt
  have hc := c.isLt
  have hd := d.isLt
  simp only [decodeFieldValue, Instr.lspNbRecord.injEq, BitVec.toNat_eq, lspIndexAt_toNat, encode_lspNbRecord]
  simp only [Config.lspW] at hm ha hb hc hd
  omega

end Record

/-! ### Fields -/

theorem decode_field {k : FieldKind} {v : Nat} (x : Nat) (h : v < 2 ^ k.width) :
    decode x (.field k) v = .ok (decodeFieldValue k v) :=
  if_pos (decide_eq_true h)

theorem eq_of_decode_field {x v : Nat} {k : FieldKind} {i : Instr} (h : decode x (.field k) v = .ok i) :
    v < 2 ^ k.width ∧ i = decodeFieldValue k v := by
  simp only [decode, decodeField] at h
  split at h
  · next hv =>
    cases h
    exact ⟨of_decide_eq_true hv, rfl⟩
  · cases h

/-- R71, R74, R75, R78, R79: the numeral of the element a field's value is, is that value. -/
theorem encode_decodeFieldValue (x : Nat) {k : FieldKind} {v : Nat} (h : v < 2 ^ k.width) :
    encode x (decodeFieldValue k v) = v := by
  cases k <;>
    simp only [FieldKind.width, Config.flagW, Config.tagW, Config.codeW, Config.lspW, Nat.reduceMul, Nat.reducePow] at h
  case flag1 | flag2 | flag3 | tag | code => interval_cases v <;> rfl
  case lspLbr =>
    simp only [decodeFieldValue, encode_lspLbrRecord, lspIndexAt_toNat]
    omega
  case lspNb =>
    simp only [decodeFieldValue, encode_lspNbRecord, lspIndexAt_toNat]
    omega

/-! ### The statements -/

/-- Settles O5: opcode by opcode, field value by field value, and the records by their indices. -/
theorem decodeOfEncode : Obligations.DecodeOfEncode := by
  intro x i h
  cases i
  case load | remain | hasrem | rdbit | rdbits | rdbitss | trybit | trybits | trybitss | skip | findsub | lsplbr | lspnb
    | reservedD | reservedE | reservedF => exact decode_commandNumeral _ (of_decide_eq_true h)
  case lspLbrRecord m a b =>
    exact (decode_field (k := .lspLbr) x (Laws.EncodeFits.lspLbrRecord m a b x h)).trans
      (congrArg _ (decodeFieldValue_encode_lspLbr m a b x))
  case lspNbRecord m a b c d =>
    exact (decode_field (k := .lspNb) x (Laws.EncodeFits.lspNbRecord m a b c d x h)).trans
      (congrArg _ (decodeFieldValue_encode_lspNb m a b c d x))
  all_goals rfl

/-- Settles O6: a word is its opcode and its operand, and a field's element is its value. -/
theorem encodeOfDecode : Obligations.EncodeOfDecode := by
  intro x f v i h
  cases f with
  | cmd =>
    obtain ⟨hv, rfl⟩ := eq_of_decode_cmd h
    obtain ⟨hop, hw⟩ := commandOp_commandN hv
    obtain ⟨hformat, hencode⟩ := encode_decodeOp x (commandN x v) hop
    exact ⟨hformat, decodeCommand_wf x v, hencode.trans hw⟩
  | field k =>
    obtain ⟨hv, rfl⟩ := eq_of_decode_field h
    have hformat := decodeFieldValue_format k v
    exact ⟨hformat, wf_of_format_field hformat x, encode_decodeFieldValue x hv⟩

/-- Settles O7: by the decoder's test of the width. -/
theorem decodeIsTotalOnItsWidth : Obligations.DecodeIsTotalOnItsWidth := by
  intro x f v
  cases f with
  | cmd =>
    split
    · next h => exact ⟨_, if_pos h⟩
    · next h => exact if_neg h
  | field k =>
    split
    · next h => exact ⟨_, decode_field x h⟩
    · next h => exact if_neg fun hfits => h (of_decide_eq_true hfits)

/-- Settles O8: each opcode's word decodes by `decodeOp`. -/
theorem opcodeMap : Obligations.OpcodeMap := fun _ _ h =>
  ⟨decode_commandNumeral 0x0 h, decode_commandNumeral 0x1 h, decode_commandNumeral 0x2 h, decode_commandNumeral 0x3 h,
    decode_commandNumeral 0x4 h, decode_commandNumeral 0x5 h, decode_commandNumeral 0x6 h, decode_commandNumeral 0x7 h,
    decode_commandNumeral 0x8 h, decode_commandNumeral 0x9 h, decode_commandNumeral 0xA h, decode_commandNumeral 0xB h,
    decode_commandNumeral 0xC h, decode_commandNumeral 0xD h, decode_commandNumeral 0xE h, decode_commandNumeral 0xF h⟩

/-- Settles O9: the decoder run on eleven fixed words. -/
theorem writtenWordsDecode : Obligations.WrittenWordsDecode := by
  unfold Obligations.WrittenWordsDecode
  decide

end Sys2Proof.Machine
end

section
/-! The assembler's reading of a decimal operand (30_encoding.md R88). -/

namespace Sys2Proof.Machine

/-- A decimal digit as a character. -/
def digitChar (d : Fin 10) : Char := Char.ofNat (48 + d.val)

theorem digitValue_digitChar (d : Fin 10) : digitValue (digitChar d) = some d.val := by
  revert d
  decide

/-- A digit separates nothing, starts no comment and is no `x`. -/
theorem digitChar_plain (d : Fin 10) : asmSpace (digitChar d) = false ∧ digitChar d ≠ '#' ∧ digitChar d ≠ 'x' := by
  revert d
  decide

/-- Digits read one after another: their value in base 10, after `acc`. -/
theorem asmDigits_digits (acc : Nat) (ds : List (Fin 10)) :
    asmDigits 10 acc (ds.map digitChar) = some (Nat.ofDigits 10 (ds.map Fin.val).reverse + 10 ^ ds.length * acc) := by
  induction ds generalizing acc with
  | nil => simp [asmDigits]
  | cons d ds ih =>
    rw [List.map_cons, asmDigits, digitValue_digitChar]
    simp only [d.isLt, if_true]
    rw [ih]
    simp only [List.map_cons, List.reverse_cons, Nat.ofDigits_append, Nat.ofDigits_singleton, List.length_reverse,
      List.length_map, List.length_cons]
    congr 1
    ring

/-- A number in decimal is read as its value. -/
theorem asmNumber_digits (d : Fin 10) (ds : List (Fin 10)) :
    asmNumber ((d :: ds).map digitChar) = some (Nat.ofDigits 10 ((d :: ds).map Fin.val).reverse) := by
  have hfirst : asmNumber ((d :: ds).map digitChar) = asmDigits 10 0 ((d :: ds).map digitChar) := by
    rw [List.map_cons, asmNumber]
    · simp [digitValue_digitChar]
    · intro c rest _ h
      cases ds with
      | nil => cases h
      | cons e ds => exact (digitChar_plain e).2.2 (List.cons.inj h).1
  rw [hfirst, asmDigits_digits, Nat.mul_zero, Nat.add_zero]

/-- R85: the rows of the table are found by their mnemonics, which are not empty and hold neither a separator nor the mark
of a comment. -/
theorem asmTable_rows : ∀ row ∈ asmTable, asmTable.find? (fun r => r.1 == row.1) = some row ∧ row.1 ≠ [] ∧
    ∀ c ∈ row.1, asmSpace c = false ∧ c ≠ '#' := by
  simp [asmTable, asmSpace]

/-- A line of a mnemonic, a space and an operand that begins with no separator, with no comment, is the command of the
mnemonic's row. -/
theorem assembleLine_row {x : Nat} {name : List Char} {op : BitVec 4} {kind : AsmOperand} {c : Char} {cs : List Char}
    (hrow : (name, op, kind) ∈ asmTable) (hc : asmSpace c = false) (hcs : ∀ e ∈ c :: cs, e ≠ '#') :
    assembleLine x (name ++ ' ' :: c :: cs) = (asmCommand x op kind (c :: cs)).map some := by
  obtain ⟨hfind, hne, hname⟩ := asmTable_rows _ hrow
  obtain ⟨e, es, rfl⟩ := List.exists_cons_of_ne_nil hne
  have hline : ((e :: es) ++ ' ' :: c :: cs).takeWhile (fun c => c != '#') = (e :: es) ++ ' ' :: c :: cs := by
    refine List.takeWhile_eq_self_iff.mpr fun a ha => bne_iff_ne.mpr ?_
    rcases List.mem_append.mp ha with h | h
    · exact (hname a h).2
    · rcases List.mem_cons.mp h with rfl | h
      · decide
      · exact hcs a h
  have hword : ((e :: es) ++ ' ' :: c :: cs).takeWhile (fun c => !asmSpace c) = e :: es := by
    rw [List.takeWhile_append_of_pos fun a ha => by rw [(hname a ha).1, Bool.not_false]]
    simp [asmSpace]
  have hstart : ((e :: es) ++ ' ' :: c :: cs).dropWhile asmSpace = (e :: es) ++ ' ' :: c :: cs :=
    List.dropWhile_cons_of_neg (by simp [(hname e (by simp)).1])
  have hafter : (' ' :: c :: cs).dropWhile asmSpace = c :: cs := by
    rw [List.dropWhile_cons_of_pos (by decide), List.dropWhile_cons_of_neg (by simp [hc])]
  simp only [assembleLine, hline, hstart, hword, hfind, List.drop_left, hafter]
  rfl

/-- Settles O10: the line is its row's command, and the row's operand is the number. -/
theorem assemblerReadsNumbers : Obligations.AssemblerReadsNumbers := by
  intro x name op d ds hrow
  have hplain : ∀ e ∈ (d :: ds).map digitChar, e ≠ '#' := by
    intro e he
    obtain ⟨f, -, rfl⟩ := List.mem_map.mp he
    exact (digitChar_plain f).2.1
  refine (assembleLine_row hrow (digitChar_plain d).1 hplain).trans ?_
  rw [asmCommand, ← List.map_cons, asmNumber_digits]
  simp only [asmEmit]
  split <;> rfl

end Sys2Proof.Machine
end

section
/-! Reset and `LOAD`, the next stream bit by the view, the saturating count, and what the instructions leave alone. -/

namespace Sys2Proof.Machine

/-! ### Reset and the view -/

/-- Settles O1: register by register. -/
theorem resetState : Obligations.ResetState := by
  refine ⟨rfl, fun x => ⟨rfl, rfl, rfl, rfl, rfl, rfl, rfl, rfl, rfl, rfl, rfl, rfl, fun i => ?_, rfl, rfl⟩⟩
  fin_cases i <;> rfl

/-- R51, R52: a stream bit inside the buffer, most significant bit of its byte first. -/
theorem State.bitAt_of_lt {s : State} {k : Nat} (h : k < s.bits) :
    s.bitAt k = ((Memory.read s.buf (k / 8)).getLsbD (7 - k % 8)).toNat := by
  have hk : k / 8 < s.len := by
    rw [State.bits_eq] at h
    omega
  simp [State.bitAt, State.streamBit, State.memRead, hk]

theorem State.cur_of_exhausted {s : State} (h : s.bits ≤ s.pos) : s.cur = none := if_neg (Nat.not_lt.mpr h)

/-- Settles O22: from the view inside the buffer and at its end. -/
theorem viewOfTheCursor : Obligations.ViewOfTheCursor := by
  intro s hp
  refine ⟨?_, ?_, fun h => ?_, fun h => State.cur_of_exhausted h.ge⟩
  · rcases Nat.lt_or_ge s.pos s.bits with h | h
    · rw [State.avail_toNat_of_lt h, State.nxt_of_lt h]
      omega
    · rw [State.avail_of_exhausted h, State.nxt_of_exhausted h, ← State.bits_eq]
      exact Nat.le_antisymm hp h
  · rw [State.avail_eq_zero_iff]
    omega
  · refine ⟨_, State.cur_of_lt h, ?_⟩
    rw [State.bitAt_of_lt h, State.avail_toNat_of_lt h, Nat.sub_right_comm]

/-- Settles O24: the count by the view is exact (R26), and a comparison with an `n` that fits is not changed by
saturation. -/
theorem saturatingFormAgrees : Obligations.SaturatingFormAgrees := by
  intro s n hn
  have hsat : n ≤ satAdd s.xlen (satMul8 s.xlen (s.len - s.nxt)) s.avail.toNat ↔ n ≤ s.remaining := by
    rw [State.remaining_eq_view, satAdd, satMul8, Config.byteW]
    omega
  exact decide_eq_decide.mpr hsat

/-! ### `LOAD` -/

/-- A byte of a buffer just bound (R50, R110). -/
theorem State.memRead_bindBuffer {n a : Nat} (h : a < n) (s : State) (bytes : List Byte) :
    (s.bindBuffer n bytes).memRead a = .ok (bytes.getD a 0) := by
  rw [State.memRead, State.bindBuffer_buf, Memory.read_ofBytes bytes h]
  exact if_pos h

/-- Settles O28: by the buffer bound and the view at its head. -/
theorem loadBindsTheBuffer : Obligations.LoadBindsTheBuffer := by
  intro n s
  refine ⟨_, exec_load n s, rfl, Memory.ofBytes_wf n s.din, fun a ha => State.memRead_bindBuffer ha s s.din, rfl,
    fun hn => ?_, fun hn => ?_⟩
  · have hlt : (s.bindBuffer n s.din).pos < (s.bindBuffer n s.din).bits := by
      rw [State.bits_eq, State.bindBuffer_pos, State.bindBuffer_len]
      omega
    refine ⟨?_, State.avail_bindBuffer hn s s.din, ?_⟩
    · rw [State.nxt_of_lt hlt, State.bindBuffer_pos, Nat.zero_div]
    · rw [State.cur_of_lt hlt, State.bindBuffer_pos, Nat.zero_div, State.bindBuffer_buf,
        Memory.read_ofBytes s.din (Nat.pos_of_ne_zero hn)]
  · subst hn
    exact ⟨rfl, rfl⟩

/-! ### What the other instructions leave alone -/

/-- R27, R60, R172: an instruction other than `LOAD` stores nothing, whether it faults or completes. -/
theorem exec_keeps_buffer {i : Instr} {s t : State} (hl : ∀ n, i ≠ .load n) (h : exec i s = .next t) :
    t.buf = s.buf ∧ t.len = s.len ∧ ∀ a, t.memRead a = s.memRead a := by
  have hbuf : t.buf = s.buf ∧ t.len = s.len := by
    rcases exec_cases h with ⟨n, rfl, -⟩ | ⟨-, ⟨-, rfl⟩ | ⟨-, ⟨c, rfl⟩ | he⟩⟩
    · exact absurd rfl (hl n)
    · exact ⟨rfl, rfl⟩
    · exact ⟨rfl, rfl⟩
    · rw [he.frame]
      exact ⟨rfl, rfl⟩
  obtain ⟨hb, hlen⟩ := hbuf
  exact ⟨hb, hlen, fun a => by rw [State.memRead, State.memRead, hb, hlen]⟩

/-- Settles O25. -/
theorem cursorOnlyMovesForward : Obligations.CursorOnlyMovesForward := by
  intro i s t hl h
  obtain ⟨hb, hlen, hread⟩ := exec_keeps_buffer hl h
  exact ⟨hb, hlen, hread, fun hf hp => exec_moves_forward hl hp h hf⟩

/-- R36: the write columns of the commands, for an effect that completed. -/
theorem Effect.write_columns {i : Instr} {s t : State} (hc : i.format = .cmd) (h : Effect i s t) :
    (t.pos = s.pos ∨ ∀ n, i ≠ .remain n ∧ i ≠ .hasrem n) ∧
    ((t.res = s.res ∧ t.vld = s.vld) ∨ ∃ n, i = .rdbit n ∨ i = .rdbits n ∨ i = .rdbitss n ∨ i = .trybit n ∨
      i = .trybits n ∨ i = .trybitss n) ∧
    (t.cnt = s.cnt ∨ ∃ n, i = .remain n) ∧ (t.flg = s.flg ∨ ∃ n, i = .hasrem n) ∧
    (t.sub = s.sub ∨ ∃ n, i = .findsub n) ∧ (t.lsp = s.lsp ∨ ∃ n, i = .lsplbr n ∨ i = .lspnb n) := by
  cases i
  case load | reservedD | reservedE | reservedF => exact h.elim
  case remain =>
    obtain ⟨-, rfl⟩ := h
    simp
  case hasrem =>
    obtain rfl : t = _ := h
    simp
  case rdbit | rdbits | rdbitss | trybit | trybits | trybitss | lsplbr | lspnb =>
    obtain ⟨n, r, -, rfl⟩ := h
    simp
  case findsub =>
    obtain ⟨n, c, -, -, rfl⟩ := h
    simp
  case skip =>
    obtain ⟨n, -, rfl⟩ := h
    simp
  all_goals cases hc

/-- Settles O26: the frame of a completed effect, and its write columns. -/
theorem commandsWriteOnlyTheirRegisters : Obligations.CommandsWriteOnlyTheirRegisters := by
  intro i s t hc hl h hf
  obtain ⟨-, he⟩ := effect_of_exec hl h hf
  have hframe := he.frame
  refine ⟨?_, ?_, ?_, ?_, ?_, ?_, he.write_columns hc⟩ <;> rw [hframe]

end Sys2Proof.Machine
end

section
/-! What every instruction answers, once: from the registers the cursor commands read (`XLEN`, `BUF`, `LEN`, `POS`) a
verdict, which is a fault or a place for the cursor and one write. Every instruction but `LOAD` is that verdict, performed;
the statements about single instructions follow from it. -/

namespace Sys2Proof.Machine

/-! ### Verdicts -/

/-- What an instruction writes beside the cursor (R36). -/
inductive Write where
  /-- No result register. -/
  | nothing
  /-- `FLG`. -/
  | flg (b : Bool)
  /-- `CNT`. -/
  | cnt (r : Nat)
  /-- `RES` and `VLD`. -/
  | read (r : Option Result)
  /-- `SUB`. -/
  | sub (c : Code)
  /-- The LSP file. -/
  | lsp (r : Vector LspIndex 5)

def State.write (s : State) : Write → State
  | .nothing => s
  | .flg b => s.setFlg b
  | .cnt r => s.setCnt r
  | .read r => s.setRead r
  | .sub c => s.setSub c
  | .lsp r => s.setLsp r

/-- A cause, or the cursor's new place and a write. -/
abbrev Verdict : Type := Except Cause (Nat × Write)

/-- The pseudocode that comes to a verdict. -/
def State.conclude (s : State) : Verdict → Proc Unit
  | .error c => .raise c
  | .ok (q, w) => .done () (State.write { s with pos := q } w)

/-- The state an unfaulted block answers by a verdict (R109, R172). -/
def State.answer (s : State) : Verdict → State
  | .error c => s.takeFault c
  | .ok (q, w) => State.write { s with pos := q } w

/-- `v` where `n` bits are left, the fault `c` otherwise. -/
def State.within (s : State) (n : Nat) (c : Cause) (v : Verdict) : Verdict :=
  if s.remaining < n then .error c else v

theorem State.within_eq {s : State} {n : Nat} {c : Cause} {v : Verdict} (h : n ≤ s.remaining) : s.within n c v = v :=
  if_neg (Nat.not_lt.mpr h)

theorem State.within_short {s : State} {n : Nat} {c : Cause} {v : Verdict} (h : s.remaining < n) :
    s.within n c v = .error c :=
  if_pos h

/-- A verdict names the cursor's place by its bit address, so it does not depend on where the cursor has got to. -/
theorem State.conclude_advance (s : State) (n : Nat) (v : Verdict) : (s.advance n).conclude v = s.conclude v := by
  cases v <;> rfl

/-- Pseudocode that faults where fewer than `n` bits are left, and then goes on to a verdict. -/
theorem State.conclude_within {α : Type} {s t : State} {n : Nat} {c : Cause} {a : α} {p : Proc α}
    {k : α → State → Proc Unit} {v : Verdict}
    (h : s.remaining < n ∧ p = .raise c ∨ n ≤ s.remaining ∧ p = .done a t)
    (hk : n ≤ s.remaining → k a t = s.conclude v) : p.andThen k = s.conclude (s.within n c v) := by
  rcases h with ⟨hr, rfl⟩ | ⟨hr, rfl⟩
  · rw [State.within_short hr]
    rfl
  · rw [State.within_eq hr]
    exact hk hr

/-- A command whose pseudocode comes to a verdict. -/
theorem State.command_conclude {s : State} {p : State → Proc Unit} {v : Verdict} (hf : s.fault = false)
    (h : p s = s.conclude v) : s.command p = .next (s.answer v) := by
  cases v with
  | error c => exact State.command_raise hf h
  | ok r => exact State.command_done hf h

/-! ### What each instruction comes to -/

/-- A submode code's outcome, the cursor left at `q` (R75). -/
def codeVerdict (q c : Nat) : Verdict :=
  if c ≤ 8 then .ok (q, .sub (BitVec.ofNat _ c))
  else if c ≤ 12 then .error .reservedSubmode
  else if c = 13 then .error .nhUserInband
  else if c = 14 then .error .nhCodecInband
  else .error .nhTerminator

/-- A selector of value `c` as a field (R141 step 3). -/
def State.selectorVerdict (s : State) (c : Nat) : Verdict := s.within 4 .notEnoughBits (codeVerdict (s.pos + 4) c)

/-- The LSP index at bit address `q` (R162). -/
def State.indexAt (s : State) (q : Nat) : LspIndex := BitVec.ofNat _ (s.fieldValue q 6)

/-- The outcome of a frame header, with its code as a write of `SUB`. -/
def State.headerVerdict (s : State) (table : Tag → Nat) : Verdict :=
  (s.headerOutcome table).map fun r => (r.1, .sub (BitVec.ofNat _ r.2))

/-- `F1` or `F2`, of either value (R141 steps 1, 2b). -/
def State.flagVerdict (s : State) : Verdict := s.within 5 .notEnoughBits (.ok (s.pos + 1, .nothing))

/-- `F3` (R145, R146). -/
def State.thirdFlagVerdict (s : State) (f3 : Bool) : Verdict :=
  s.within 1 .underrun (if f3 then .error .tooManyWbLayers else .ok (s.pos + 1, .nothing))

/-- A tag whose layer has `n` bits of payload (R73). -/
def State.tagVerdict (s : State) (n : Nat) : Verdict := s.within (3 + n) .underrun (.ok (s.pos + (3 + n), .nothing))

/-- An LSP record of `n` bits (R78, R79). -/
def State.lspVerdict (s : State) (n : Nat) (r : Vector LspIndex 5) : Verdict :=
  s.within n .underrun (.ok (s.pos + n, .lsp r))

/-- What each instruction comes to from an unfaulted state. `LOAD` is none of these: it binds a buffer, and its arm here
is never performed. -/
def State.verdict (s : State) : Instr → Verdict
  | .load _ => .ok (s.pos, .nothing)
  | .remain _ => if s.remaining < 2 ^ s.xlen then .ok (s.pos, .cnt s.remaining) else .error .countOverflow
  | .hasrem n => .ok (s.pos, .flg (s.hasRemaining n))
  | .rdbit _ => s.within 1 .underrun (.ok (s.pos + 1, .read (some (zext32 (s.bitAt s.pos)))))
  | .rdbits n =>
    if 32 < n then .error .width
    else s.within n .underrun (.ok (s.pos + n, .read (some (zext32 (s.fieldValue s.pos n)))))
  | .rdbitss n =>
    if 32 < n then .error .width
    else if n = 0 then .error .signedZeroWidth
    else s.within n .underrun (.ok (s.pos + n, .read (some (sext32 (s.fieldValue s.pos n) n))))
  | .trybit _ =>
    if s.remaining < 1 then .ok (s.pos, .read none)
    else .ok (s.pos + 1, .read (some (zext32 (s.bitAt s.pos))))
  | .trybits n =>
    if 32 < n then .error .width
    else if s.remaining < n then .ok (s.pos, .read none)
    else .ok (s.pos + n, .read (some (zext32 (s.fieldValue s.pos n))))
  | .trybitss n =>
    if 32 < n then .error .width
    else if n = 0 then .error .signedZeroWidth
    else if s.remaining < n then .ok (s.pos, .read none)
    else .ok (s.pos + n, .read (some (sext32 (s.fieldValue s.pos n) n)))
  | .skip n => s.within n .underrun (.ok (s.pos + n, .nothing))
  | .findsub _ => s.headerVerdict (Config.wbSkip s.xlen)
  | .lsplbr _ => s.lspVerdict 18 #v[s.indexAt s.pos, s.indexAt (s.pos + 6), s.indexAt (s.pos + 12), 0, 0]
  | .lspnb _ =>
    s.lspVerdict 30 #v[s.indexAt s.pos, s.indexAt (s.pos + 6), s.indexAt (s.pos + 12), s.indexAt (s.pos + 18),
      s.indexAt (s.pos + 24)]
  | .reservedD _ | .reservedE _ | .reservedF _ => .error .illegalCmd
  | .f1Clear | .f1Set | .f2Clear | .f2Set => s.flagVerdict
  | .f3Clear => s.thirdFlagVerdict false
  | .f3Set => s.thirdFlagVerdict true
  | .wbtag0 => s.tagVerdict (Config.wbSkip s.xlen 0)
  | .wbtag1 => s.tagVerdict (Config.wbSkip s.xlen 1)
  | .wbtag2 => s.tagVerdict (Config.wbSkip s.xlen 2)
  | .wbtag3 => s.tagVerdict (Config.wbSkip s.xlen 3)
  | .wbtag4 => s.tagVerdict (Config.wbSkip s.xlen 4)
  | .wbtag5 => s.tagVerdict (Config.wbSkip s.xlen 5)
  | .wbtag6 => s.tagVerdict (Config.wbSkip s.xlen 6)
  | .wbtag7 => s.tagVerdict (Config.wbSkip s.xlen 7)
  | .code0 => s.selectorVerdict 0
  | .code1 => s.selectorVerdict 1
  | .code2 => s.selectorVerdict 2
  | .code3 => s.selectorVerdict 3
  | .code4 => s.selectorVerdict 4
  | .code5 => s.selectorVerdict 5
  | .code6 => s.selectorVerdict 6
  | .code7 => s.selectorVerdict 7
  | .code8 => s.selectorVerdict 8
  | .code9 => s.selectorVerdict 9
  | .code10 => s.selectorVerdict 10
  | .code11 => s.selectorVerdict 11
  | .code12 => s.selectorVerdict 12
  | .code13 => s.selectorVerdict 13
  | .code14 => s.selectorVerdict 14
  | .code15 => s.selectorVerdict 15
  | .lspLbrRecord m a b => s.lspVerdict 18 #v[m, a, b, 0, 0]
  | .lspNbRecord m a b c d => s.lspVerdict 30 #v[m, a, b, c, d]

/-! ### The cursor commands -/

/-- `REMAIN`'s pseudocode (R111). -/
theorem State.countRemaining_concludes (s : State) (n : Nat) : s.countRemaining = s.conclude (s.verdict (.remain n)) := by
  by_cases h : s.remaining < 2 ^ s.xlen
  · rw [State.countRemaining, if_neg (Nat.not_le.mpr h), State.verdict, if_pos h]
    rfl
  · rw [State.countRemaining, if_pos (Nat.le_of_not_lt h), State.verdict, if_neg h]
    rfl

/-- `RDBITS`'s pseudocode (R103, R114). -/
theorem State.readBits_concludes (s : State) (n : Nat) :
    ((s.readBits n).andThen fun v t => .done () (t.setRead (some (zext32 v)))) = s.conclude (s.verdict (.rdbits n)) := by
  dsimp only [State.verdict]
  split
  · next h =>
    rw [State.readBits_wide h]
    rfl
  · next h => exact State.conclude_within (s.readBits_cases (Nat.le_of_not_lt h)) fun _ => rfl

/-- Everything a signed read of a legal width can do (R104). -/
theorem State.readBitsSigned_cases (s : State) {n : Nat} (h0 : n ≠ 0) (hn : n ≤ 32) :
    (s.remaining < n ∧ s.readBitsSigned n = .raise .underrun) ∨
      (n ≤ s.remaining ∧ s.readBitsSigned n = .done (sext32 (s.fieldValue s.pos n) n) (s.advance n)) := by
  rcases Nat.lt_or_ge s.remaining n with h | h
  · exact .inl ⟨h, State.readBitsSigned_short h0 hn h⟩
  · exact .inr ⟨h, State.readBitsSigned_eq h0 hn h⟩

/-- `RDBITSS`'s pseudocode (R104, R115). -/
theorem State.readBitsSigned_concludes (s : State) (n : Nat) :
    ((s.readBitsSigned n).andThen fun v t => .done () (t.setRead (some v))) = s.conclude (s.verdict (.rdbitss n)) := by
  dsimp only [State.verdict]
  split
  · next h =>
    rw [State.readBitsSigned_wide h]
    rfl
  next hn =>
  split
  · next h0 =>
    subst h0
    rw [State.readBitsSigned_zero]
    rfl
  · next h0 => exact State.conclude_within (s.readBitsSigned_cases h0 (Nat.le_of_not_lt hn)) fun _ => rfl

/-- `TRYBIT`'s pseudocode (R105, R116). -/
theorem State.tryReadBit_concludes (s : State) (n : Nat) :
    (s.tryReadBit.andThen fun r t => .done () (t.setRead (r.map fun b => zext32 b.toNat))) =
      s.conclude (s.verdict (.trybit n)) := by
  rcases s.readBit_cases with ⟨h, -⟩ | ⟨h, b, hb, hread⟩
  · rw [State.tryReadBit, if_neg (by rw [State.hasRemaining_iff]; omega), State.verdict, if_pos h]
    rfl
  · rw [State.tryReadBit, if_pos ((s.hasRemaining_iff 1).mpr h), hread, State.verdict, if_neg (Nat.not_lt.mpr h), ← hb]
    rfl

/-- `TRYBITS`'s pseudocode (R105, R117). -/
theorem State.tryReadBits_concludes (s : State) (n : Nat) :
    ((s.tryReadBits n).andThen fun r t => .done () (t.setRead (r.map zext32))) = s.conclude (s.verdict (.trybits n)) := by
  dsimp only [State.verdict]
  split
  · next h =>
    rw [State.tryReadBits, State.checkWidth, if_pos h]
    rfl
  next hn =>
  split
  · next h =>
    rw [State.tryReadBits_short (Nat.le_of_not_lt hn) h]
    rfl
  · next h =>
    rw [State.tryReadBits_eq (Nat.le_of_not_lt hn) (Nat.le_of_not_lt h)]
    rfl

/-- `TryReadBitsSigned(n)` of a legal width with enough bits left (R105). -/
theorem State.tryReadBitsSigned_eq {s : State} {n : Nat} (h0 : n ≠ 0) (hn : n ≤ 32) (h : n ≤ s.remaining) :
    s.tryReadBitsSigned n = .done (some (sext32 (s.fieldValue s.pos n) n)) (s.advance n) := by
  rw [State.tryReadBitsSigned, State.checkSignedWidth, if_neg (Nat.not_lt.mpr hn), if_neg h0, Proc.done_andThen,
    if_pos ((s.hasRemaining_iff n).mpr h), State.readBitsSigned_eq h0 hn h, Proc.done_andThen]

/-- `TryReadBitsSigned(n)` of a legal width with too few bits left: empty, and the cursor has not moved (R105). -/
theorem State.tryReadBitsSigned_short {s : State} {n : Nat} (h0 : n ≠ 0) (hn : n ≤ 32) (h : s.remaining < n) :
    s.tryReadBitsSigned n = .done none s := by
  rw [State.tryReadBitsSigned, State.checkSignedWidth, if_neg (Nat.not_lt.mpr hn), if_neg h0, Proc.done_andThen,
    if_neg (by rw [State.hasRemaining_iff]; omega)]

/-- `TRYBITSS`'s pseudocode (R105, R118). -/
theorem State.tryReadBitsSigned_concludes (s : State) (n : Nat) :
    ((s.tryReadBitsSigned n).andThen fun r t => .done () (t.setRead r)) = s.conclude (s.verdict (.trybitss n)) := by
  dsimp only [State.verdict]
  split
  · next h =>
    rw [State.tryReadBitsSigned, State.checkSignedWidth, if_pos h]
    rfl
  next hn =>
  split
  · next h0 =>
    rw [State.tryReadBitsSigned, State.checkSignedWidth, if_neg hn, if_pos h0]
    rfl
  next h0 =>
  split
  · next h =>
    rw [State.tryReadBitsSigned_short h0 (Nat.le_of_not_lt hn) h]
    rfl
  · next h =>
    rw [State.tryReadBitsSigned_eq h0 (Nat.le_of_not_lt hn) (Nat.le_of_not_lt h)]
    rfl

/-- A skip (R106). -/
theorem State.skipBits_concludes (s : State) (n : Nat) : s.skipBits n = s.conclude (s.verdict (.skip n)) := by
  rcases s.skipBits_cases n with ⟨h, hs⟩ | ⟨h, hs⟩ <;> rw [hs, State.verdict]
  · rw [State.within_short h]
    rfl
  · rw [State.within_eq h]
    rfl

/-! ### The fields of a header, one at a time -/

/-- `F1` and `F2` (R141 steps 1, 2b). -/
theorem State.takeFlag_concludes (s : State) : s.takeFlag = s.conclude s.flagVerdict :=
  State.conclude_within (s.requireBits_cases _ _) fun h => by
    rw [State.skipBits_eq (Nat.le_trans (by decide) h)]
    rfl

/-- `F3` (R145, R146). -/
theorem State.takeThirdFlag_concludes (s : State) (f3 : Bool) :
    s.takeThirdFlag f3 = s.conclude (s.thirdFlagVerdict f3) :=
  State.conclude_within (s.skipBits_cases _) fun _ => by cases f3 <;> rfl

/-- Everything taking a tag can do (R73). -/
theorem State.takeTag_concludes (s : State) (table : Tag → Nat) (tag : Tag) :
    s.takeTag table tag = s.conclude (s.tagVerdict (table tag)) := by
  have hrem := s.remaining_advance 3
  rcases s.skipBits_cases 3 with ⟨h, hs⟩ | ⟨h, hs⟩ <;> rw [State.takeTag, hs, State.tagVerdict]
  · rw [State.within_short (by omega)]
    rfl
  · rw [Proc.done_andThen]
    rcases (s.advance 3).skipBits_cases (table tag) with ⟨h', hs'⟩ | ⟨h', hs'⟩ <;> rw [hs']
    · rw [State.within_short (by omega)]
      rfl
    · rw [State.within_eq (by omega), State.advance_advance]
      rfl

/-- A submode code's outcome (R75). -/
theorem State.selectSubmode_concludes (s : State) (c : Nat) : s.selectSubmode c = s.conclude (codeVerdict s.pos c) := by
  unfold State.selectSubmode codeVerdict
  split_ifs <;> rfl

/-- A selector's field (R141 step 3). -/
theorem State.takeCode_concludes (s : State) (c : Nat) :
    s.takeCode c = s.conclude (s.selectorVerdict c) :=
  State.conclude_within (s.requireBits_cases _ _) fun h => by
    rw [State.skipBits_eq h, Proc.done_andThen, State.selectSubmode_concludes]
    exact s.conclude_advance 4 _

/-! ### The LSP readers -/

theorem State.readIndex_cases (s : State) :
    (s.remaining < 6 ∧ s.readIndex = .raise .underrun) ∨
      (6 ≤ s.remaining ∧ s.readIndex = .done (s.indexAt s.pos) (s.advance 6)) := by
  rcases s.readBits_cases (n := 6) (by decide) with ⟨h, hr⟩ | ⟨h, hr⟩
  · exact .inl ⟨h, by rw [State.readIndex, hr, Proc.raise_andThen]⟩
  · exact .inr ⟨h, by rw [State.readIndex, hr, Proc.done_andThen, State.indexAt]⟩

/-- Reading one index and going on needs six bits more than going on does. -/
theorem State.readIndex_andThen {s : State} {n : Nat} {k : LspIndex → State → Proc Unit} {v : Verdict}
    (hk : k (s.indexAt s.pos) (s.advance 6) = (s.advance 6).conclude ((s.advance 6).within n .underrun v)) :
    s.readIndex.andThen k = s.conclude (s.within (6 + n) .underrun v) := by
  have hrem := s.remaining_advance 6
  rcases s.readIndex_cases with ⟨h, hr⟩ | ⟨h, hr⟩ <;> rw [hr]
  · rw [State.within_short (by omega)]
    rfl
  · rw [Proc.done_andThen, hk, State.conclude_advance]
    rcases Nat.lt_or_ge (s.advance 6).remaining n with h' | h'
    · rw [State.within_short h', State.within_short (by omega)]
    · rw [State.within_eq h', State.within_eq (by omega)]

/-- `LSPLBR`'s pseudocode (R160). -/
theorem State.readLbr_concludes (s : State) (n : Nat) :
    (s.readIndex.andThen fun m s => s.readIndex.andThen fun l s => s.readIndex.andThen fun h s =>
      .done () (s.setLsp #v[m, l, h, 0, 0])) = s.conclude (s.verdict (.lsplbr n)) :=
  State.readIndex_andThen (n := 12) (State.readIndex_andThen (n := 6) (State.readIndex_andThen (n := 0) rfl))

/-- `LSPNB`'s pseudocode (R161). -/
theorem State.readNb_concludes (s : State) (n : Nat) :
    (s.readIndex.andThen fun t0 s => s.readIndex.andThen fun t1 s => s.readIndex.andThen fun t2 s =>
      s.readIndex.andThen fun t3 s => s.readIndex.andThen fun t4 s =>
        .done () (s.setLsp #v[t0, t1, t2, t3, t4])) = s.conclude (s.verdict (.lspnb n)) :=
  State.readIndex_andThen (n := 24) (State.readIndex_andThen (n := 18) (State.readIndex_andThen (n := 12)
    (State.readIndex_andThen (n := 6) (State.readIndex_andThen (n := 0) rfl))))

/-- A record taken whole (R78, R79). -/
theorem State.takeRecord_concludes (s : State) (n : Nat) (r : Vector LspIndex 5) :
    ((s.skipBits n).andThen fun _ t => .done () (t.setLsp r)) = s.conclude (s.lspVerdict n r) :=
  State.conclude_within (s.skipBits_cases n) fun _ => rfl

end Sys2Proof.Machine
end

section
/-! The frame header (41_frame_header.md): the resolver, the fields taken one at a time and the closed form of R71 and R143
all come to one verdict, which is given here from each field of the header on. -/

namespace Sys2Proof.Machine

/-! ### A header from each of its fields on -/

/-- From the selector on. -/
def State.fromSelector (s : State) : Verdict := s.selectorVerdict (s.fieldValue s.pos 4)

/-- From the third flag on. -/
def State.fromThirdFlag (s : State) : Verdict :=
  s.within 1 .underrun (if s.bitAt s.pos = 0 then (s.advance 1).fromSelector else .error .tooManyWbLayers)

/-- From the second tag on. -/
def State.fromSecondTag (s : State) (table : Tag → Nat) : Verdict :=
  s.within (3 + s.skipAt table s.pos) .underrun (s.advance (3 + s.skipAt table s.pos)).fromThirdFlag

/-- From the second flag on. -/
def State.fromSecondFlag (s : State) (table : Tag → Nat) : Verdict :=
  s.within 5 .notEnoughBits
    (if s.bitAt s.pos = 0 then (s.advance 1).fromSelector else (s.advance 1).fromSecondTag table)

/-- From the first tag on. -/
def State.fromFirstTag (s : State) (table : Tag → Nat) : Verdict :=
  s.within (3 + s.skipAt table s.pos) .underrun ((s.advance (3 + s.skipAt table s.pos)).fromSecondFlag table)

/-- From the first flag on, the whole header. -/
def State.fromFirstFlag (s : State) (table : Tag → Nat) : Verdict :=
  s.within 5 .notEnoughBits
    (if s.bitAt s.pos = 0 then (s.advance 1).fromSelector else (s.advance 1).fromFirstTag table)

/-! ### The resolver -/

/-- Step 3 of R141. -/
theorem State.readSelector_concludes (s : State) : s.readSelector = s.conclude s.fromSelector := by
  rcases s.readSelector_cases with ⟨h, hr⟩ | ⟨h, hr⟩ <;> rw [hr, State.fromSelector, State.selectorVerdict]
  · rw [State.within_short h]
    rfl
  · rw [State.within_eq h, State.selectSubmode_concludes]
    exact s.conclude_advance 4 _

/-- Everything reading a flag can do (R102). -/
theorem State.readFlag_cases (s : State) :
    (s.remaining < 1 ∧ s.readBit = .raise .underrun) ∨
      (1 ≤ s.remaining ∧ s.readBit = .done (decide (s.bitAt s.pos ≠ 0)) (s.advance 1)) := by
  rcases s.readBit_cases with h | ⟨h, b, hb, hr⟩
  · exact .inl h
  · refine .inr ⟨h, ?_⟩
    rw [hr, ← hb]
    cases b <;> rfl

theorem Proc.andThen_assoc {α β γ : Type} (p : Proc α) (k : α → State → Proc β) (l : β → State → Proc γ) :
    (p.andThen k).andThen l = p.andThen fun a s => (k a s).andThen l := by
  cases p <;> rfl

/-- A flag, and the rest of the header by whether it is clear. -/
theorem State.readFlag_concludes {s : State} {k : Bool → State → Proc Unit} {x y : Verdict}
    (hx : k false (s.advance 1) = s.conclude x) (hy : k true (s.advance 1) = s.conclude y) :
    s.readBit.andThen k = s.conclude (s.within 1 .underrun (if s.bitAt s.pos = 0 then x else y)) := by
  refine State.conclude_within s.readFlag_cases fun _ => ?_
  by_cases h : s.bitAt s.pos = 0
  · rw [decide_eq_false (not_not.mpr h), if_pos h, hx]
  · rw [decide_eq_true h, if_neg h, hy]

/-- A flag behind the check for a minimum header (R141 steps 1, 2b). -/
theorem State.checkedFlag_concludes {s : State} {k : Bool → State → Proc Unit} {x y : Verdict}
    (hx : k false (s.advance 1) = s.conclude x) (hy : k true (s.advance 1) = s.conclude y) :
    ((s.requireBits 5 .notEnoughBits).andThen fun _ t => t.readBit.andThen k) =
      s.conclude (s.within 5 .notEnoughBits (if s.bitAt s.pos = 0 then x else y)) :=
  State.conclude_within (s.requireBits_cases _ _) fun h =>
    (State.readFlag_concludes hx hy).trans (by rw [State.within_eq (Nat.le_trans (by decide) h)])

/-- From the selector on, one bit past a clear flag. -/
theorem State.readSelector_advance (s : State) :
    (s.advance 1).readSelector = s.conclude (s.advance 1).fromSelector := by
  rw [State.readSelector_concludes, State.conclude_advance]

/-- The second layer, the third flag, read unchecked (R145, R146), and the selector. -/
theorem State.secondLayer_concludes (s : State) (table : Tag → Nat) :
    ((s.secondLayer table true).andThen fun _ t => t.readSelector) = s.conclude (s.fromSecondTag table) := by
  rw [State.secondLayer, if_pos rfl, Proc.andThen_assoc]
  refine State.conclude_within (s.skipLayer_cases table) fun _ => ?_
  rw [Proc.andThen_assoc, ← State.conclude_advance]
  exact State.readFlag_concludes (State.readSelector_advance _) rfl

/-- The first layer, the second flag behind its check, and what follows it. -/
theorem State.firstLayer_concludes (s : State) (table : Tag → Nat) :
    ((s.firstLayer table true).andThen fun _ t => t.readSelector) = s.conclude (s.fromFirstTag table) := by
  rw [State.firstLayer, if_pos rfl, Proc.andThen_assoc]
  refine State.conclude_within (s.skipLayer_cases table) fun _ => ?_
  simp only [Proc.andThen_assoc]
  rw [← State.conclude_advance]
  refine State.checkedFlag_concludes (State.readSelector_advance _) ?_
  rw [State.secondLayer_concludes, State.conclude_advance]

/-- R141 comes to the header's verdict. -/
theorem State.findSubmode_concludes (s : State) (table : Tag → Nat) :
    s.findSubmode table = s.conclude (s.fromFirstFlag table) := by
  refine State.checkedFlag_concludes s.readSelector_advance ?_
  rw [State.firstLayer_concludes, State.conclude_advance]

/-! ### The closed form -/

/-- A selector's outcome, as a verdict (R75). -/
theorem State.selectorAt_map (s : State) (q : Nat) :
    ((s.selectorAt q).map fun r => (r.1, Write.sub (BitVec.ofNat _ r.2))) = codeVerdict (q + 4) (s.fieldValue q 4) := by
  dsimp only [State.selectorAt, codeVerdict]
  split_ifs <;> rfl

theorem State.ite_bitAt_eq_zero {α : Type} (s : State) (p : Nat) (x y : α) :
    (if s.bitAt p = 0 then x else y) = if s.bitAt p = 1 then y else x := by
  have := s.bitAt_le_one p
  rcases (show s.bitAt p = 0 ∨ s.bitAt p = 1 by omega) with h | h <;> simp [h]

/-- R71 and R143 with R141: the closed form over the header's addresses is the header's verdict. -/
theorem State.headerVerdict_eq (s : State) (table : Tag → Nat) : s.headerVerdict table = s.fromFirstFlag table := by
  simp only [State.headerVerdict, State.headerOutcome, apply_ite (Except.map _), State.selectorAt_map,
    State.fromFirstFlag, State.fromFirstTag, State.fromSecondFlag, State.fromSecondTag, State.fromThirdFlag,
    State.fromSelector, State.selectorVerdict, State.within, State.remaining_advance, State.advance_pos,
    State.bitAt_advance, State.fieldValue_advance, State.skipAt_advance, State.advance_advance]
  generalize hs1 : s.skipAt table (s.pos + 1) = s1
  have h1 : s.pos + (1 + (3 + s1)) = s.pos + 4 + s1 := by omega
  have h2 : s.pos + (1 + (3 + s1) + 1) = s.pos + 5 + s1 := by omega
  simp only [h1, h2]
  generalize hs2 : s.skipAt table (s.pos + 5 + s1) = s2
  have h3 : s.pos + (1 + (3 + s1) + 1 + (3 + s2)) = s.pos + 8 + s1 + s2 := by omega
  have h4 : s.pos + (1 + (3 + s1) + 1 + (3 + s2) + 1) = s.pos + 9 + s1 + s2 := by omega
  simp only [h3, h4]
  rw [s.ite_bitAt_eq_zero (s.pos + 8 + s1 + s2)]
  refine ite_congr rfl (fun _ => rfl) fun r1 => ?_
  refine ite_congr rfl (fun _ => (if_neg (by omega)).symm) fun _ => ?_
  refine ite_congr (propext (by omega)) (fun _ => rfl) fun r2 => ?_
  refine ite_congr (propext (by omega)) (fun _ => rfl) fun r3 => ?_
  refine ite_congr rfl (fun _ => (if_neg (by omega)).symm) fun _ => ?_
  refine ite_congr (propext (by omega)) (fun _ => rfl) fun r4 => ?_
  refine ite_congr (propext (by omega)) (fun _ => rfl) fun r5 => ?_
  refine ite_congr rfl (fun _ => rfl) fun _ => ?_
  exact ite_congr (propext (by omega)) (fun _ => rfl) fun _ => rfl

end Sys2Proof.Machine
end

section
/-! Every instruction but `LOAD` performs its verdict, and what follows at once: no result register is read, and the
statements about the commands of the cursor and of the LSP records (40_bitcursor.md part 2, 42_lsp_readers.md). -/

namespace Sys2Proof.Machine

/-! ### The instructions and their verdicts -/

/-- `RDBIT`'s pseudocode (R102, R113). -/
theorem State.readBit_concludes (s : State) (n : Nat) :
    (s.readBit.andThen fun b t => .done () (t.setRead (some (zext32 b.toNat)))) =
      s.conclude (s.verdict (.rdbit n)) := by
  rcases s.readBit_cases with ⟨h, hr⟩ | ⟨h, b, hb, hr⟩ <;> rw [hr, State.verdict]
  · rw [State.within_short h]
    rfl
  · rw [State.within_eq h, ← hb]
    rfl

/-- Every instruction but `LOAD` performs its verdict, unless the block is faulted. -/
theorem exec_concludes {i : Instr} (hl : ∀ n, i ≠ .load n) (s : State) :
    exec i s = s.command fun s => s.conclude (s.verdict i) := by
  cases i
  case load n => exact absurd rfl (hl n)
  case remain n => exact congrArg s.command (funext fun s => s.countRemaining_concludes n)
  case hasrem | reservedD | reservedE | reservedF => rfl
  case rdbit n => exact congrArg s.command (funext fun s => s.readBit_concludes n)
  case rdbits n => exact congrArg s.command (funext fun s => s.readBits_concludes n)
  case rdbitss n => exact congrArg s.command (funext fun s => s.readBitsSigned_concludes n)
  case trybit n => exact congrArg s.command (funext fun s => s.tryReadBit_concludes n)
  case trybits n => exact congrArg s.command (funext fun s => s.tryReadBits_concludes n)
  case trybitss n => exact congrArg s.command (funext fun s => s.tryReadBitsSigned_concludes n)
  case skip n => exact congrArg s.command (funext fun s => s.skipBits_concludes n)
  case findsub =>
    exact congrArg s.command (funext fun s =>
      (s.findSubmode_concludes (Config.wbSkip s.xlen)).trans (congrArg s.conclude (s.headerVerdict_eq _).symm))
  case lsplbr n => exact congrArg s.command (funext fun s => s.readLbr_concludes n)
  case lspnb n => exact congrArg s.command (funext fun s => s.readNb_concludes n)
  case lspLbrRecord | lspNbRecord => exact congrArg s.command (funext fun s => s.takeRecord_concludes _ _)
  case f1Clear | f1Set | f2Clear | f2Set => exact congrArg s.command (funext State.takeFlag_concludes)
  case f3Clear | f3Set => exact congrArg s.command (funext fun s => s.takeThirdFlag_concludes _)
  case wbtag0 | wbtag1 | wbtag2 | wbtag3 | wbtag4 | wbtag5 | wbtag6 | wbtag7 =>
    exact congrArg s.command (funext fun s => s.takeTag_concludes _ _)
  all_goals exact congrArg s.command (funext fun s => s.takeCode_concludes _)

theorem State.write_fault (s : State) (w : Write) : (s.write w).fault = s.fault := by
  cases w <;> rfl

section Unfaulted
variable {s : State} (i : Instr) (hf : s.fault = false) (hl : ∀ n, i ≠ .load n)
include hf hl

theorem exec_answer : exec i s = .next (s.answer (s.verdict i)) := by
  rw [exec_concludes hl]
  exact State.command_conclude hf rfl

theorem exec_of_verdict_ok {q : Nat} {w : Write} (h : s.verdict i = .ok (q, w)) :
    exec i s = .next (State.write { s with pos := q } w) := by
  rw [exec_answer i hf hl, h]
  rfl

theorem takesFault_of_verdict {c : Cause} (h : s.verdict i = .error c) : TakesFault s c (exec i s) := by
  rw [exec_answer i hf hl, h]
  exact takesFault_takeFault s c

end Unfaulted

/-! ### No result register is read -/

/-- `s` with the result registers of `r`. -/
def State.withResults (s r : State) : State :=
  { s with res := r.res, vld := r.vld, cnt := r.cnt, flg := r.flg, sub := r.sub, lsp := r.lsp }

/-- R36: the verdict is the same whatever the result registers hold. -/
theorem State.verdict_withResults (s r : State) (i : Instr) : (s.withResults r).verdict i = s.verdict i := by
  cases i <;> rfl

/-- Settles O27: the one verdict, performed on both states. -/
theorem resultRegistersAreReadByNone : Obligations.ResultRegistersAreReadByNone := by
  intro i s t r h
  change ∃ u, exec i (s.withResults r) = .next u ∧ _
  rcases exec_cases h with ⟨n, rfl, rfl⟩ | ⟨hl, ⟨hf, rfl⟩ | ⟨hf, -⟩⟩
  · exact ⟨_, exec_load n _, rfl, rfl, rfl, rfl,
      fun _ => ⟨rfl, .inl ⟨rfl, rfl⟩, .inl rfl, .inl rfl, .inl rfl, .inl rfl⟩⟩
  · refine ⟨_, exec_ignored (s := t.withResults r) hl hf, rfl, rfl, rfl, rfl, fun h0 => ?_⟩
    cases hf.symm.trans h0
  · cases (exec_answer i hf hl).symm.trans h
    refine ⟨_, exec_answer (s := s.withResults r) i hf hl, ?_⟩
    rw [State.verdict_withResults]
    cases s.verdict i with
    | error c => exact ⟨rfl, rfl, rfl, rfl, nofun⟩
    | ok v =>
      obtain ⟨q, w⟩ := v
      cases w <;> simp [State.answer, State.write, State.withResults]

/-- Settles O18: the three instructions whose verdict is never a fault, and fault entry. -/
theorem faultEntryLatchesACause : Obligations.FaultEntryLatchesACause := by
  intro i s t hs h ht
  have hl : ∀ n, i ≠ .load n := by
    rintro n rfl
    cases h
    cases ht
  have hx := exec_answer i hs hl
  cases hv : s.verdict i with
  | error c =>
    obtain ⟨hbuf, hlen, hread⟩ := exec_keeps_buffer hl h
    rw [hv] at hx
    cases hx.symm.trans h
    refine ⟨fun n => ⟨hl n, ?_, ?_⟩, ⟨c, rfl⟩, hbuf, hlen, hread, rfl⟩
    · rintro rfl
      cases hv
    · rintro rfl
      dsimp only [State.verdict] at hv
      split at hv <;> cases hv
  | ok v =>
    obtain ⟨q, w⟩ := v
    rw [hv] at hx
    cases hx.symm.trans h
    have hfault : (s.answer (.ok (q, w))).fault = s.fault := State.write_fault _ w
    rw [hfault, hs] at ht
    cases ht

end Sys2Proof.Machine
end

section
/-! The commands of the cursor from their verdicts, and reads one after another (40_bitcursor.md, 20_memory.md section 2). -/

namespace Sys2Proof.Machine

/-! ### Single commands -/

/-- Settles O20. -/
theorem reservedOpcodesFault : Obligations.ReservedOpcodesFault := fun n _ hf =>
  ⟨takesFault_of_verdict (.reservedD n) hf nofun rfl, takesFault_of_verdict (.reservedE n) hf nofun rfl,
    takesFault_of_verdict (.reservedF n) hf nofun rfl⟩

/-- Settles O29: by whether the count fits. -/
theorem remainCounts : Obligations.RemainCounts := by
  intro n s hf
  split
  · next h => exact ⟨_, exec_of_verdict_ok (.remain n) hf nofun (if_pos h), rfl, rfl⟩
  · next h => exact takesFault_of_verdict (.remain n) hf nofun (if_neg h)

/-- Settles O34: by whether a bit is left. -/
theorem trybitProbes : Obligations.TrybitProbes := by
  intro n s hf
  split
  · next h =>
    have hbit : s.bitAt s.pos < 2 ^ 1 := Nat.lt_succ_of_le (s.bitAt_le_one s.pos)
    exact ⟨_, exec_of_verdict_ok (.trybit n) hf nofun (if_neg (Nat.not_lt.mpr h)), zext32_toNat (by decide) hbit, rfl,
      rfl, rfl⟩
  · next h => exact exec_of_verdict_ok (.trybit n) hf nofun (if_pos (Nat.lt_of_not_ge h))

/-- Settles O35: by R117's checks in their order. -/
theorem trybitsProbes : Obligations.TrybitsProbes := by
  intro n s hf
  split
  · next h => exact takesFault_of_verdict (.trybits n) hf nofun (if_pos h)
  next hn =>
  split
  · next h => exact exec_of_verdict_ok (.trybits n) hf nofun ((if_neg hn).trans (if_pos h))
  · next h =>
    exact ⟨_, exec_of_verdict_ok (.trybits n) hf nofun ((if_neg hn).trans (if_neg h)),
      zext32_toNat (Nat.le_of_not_lt hn) (s.fieldValue_lt s.pos n), rfl, rfl, rfl⟩

/-- Settles O36: by R118's checks in their order. -/
theorem trybitssProbes : Obligations.TrybitssProbes := by
  intro n s hf
  split
  · next h => exact takesFault_of_verdict (.trybitss n) hf nofun (if_pos h)
  next hn =>
  split
  · next h0 => exact takesFault_of_verdict (.trybitss n) hf nofun ((if_neg hn).trans (if_pos h0))
  next h0 =>
  split
  · next h => exact exec_of_verdict_ok (.trybitss n) hf nofun ((if_neg hn).trans ((if_neg h0).trans (if_pos h)))
  · next h =>
    exact ⟨_, exec_of_verdict_ok (.trybitss n) hf nofun ((if_neg hn).trans ((if_neg h0).trans (if_neg h))),
      s.signed32_sext32_fieldValue s.pos h0 (Nat.le_of_not_lt hn), rfl, rfl, rfl⟩

/-! ### After reset -/

section AfterReset
variable {x n : Nat}

theorem resetOf_fault (x : Nat) : (State.resetOf x).fault = false := rfl

theorem resetOf_short (h : n ≠ 0) : (State.resetOf x).remaining < n := Nat.pos_of_ne_zero h

/-- R201, an operand of 0. -/
theorem commands_after_reset_zero :
    exec (.rdbits 0) (State.resetOf x) = .next { State.resetOf x with vld := true } ∧
    exec (.trybits 0) (State.resetOf x) = .next { State.resetOf x with vld := true } ∧
    exec (.skip 0) (State.resetOf x) = .next (State.resetOf x) ∧
    TakesFault (State.resetOf x) .signedZeroWidth (exec (.rdbitss 0) (State.resetOf x)) ∧
    TakesFault (State.resetOf x) .signedZeroWidth (exec (.trybitss 0) (State.resetOf x)) :=
  have hf := resetOf_fault x
  ⟨exec_of_verdict_ok (.rdbits 0) hf nofun rfl, exec_of_verdict_ok (.trybits 0) hf nofun rfl,
    exec_of_verdict_ok (.skip 0) hf nofun rfl, takesFault_of_verdict (.rdbitss 0) hf nofun rfl,
    takesFault_of_verdict (.trybitss 0) hf nofun rfl⟩

/-- R201, a legal width other than 0. -/
theorem commands_after_reset_legal (h0 : n ≠ 0) (hn : n ≤ 32) :
    TakesFault (State.resetOf x) .underrun (exec (.rdbits n) (State.resetOf x)) ∧
    TakesFault (State.resetOf x) .underrun (exec (.rdbitss n) (State.resetOf x)) ∧
    exec (.trybits n) (State.resetOf x) = .next (State.resetOf x) ∧
    exec (.trybitss n) (State.resetOf x) = .next (State.resetOf x) := by
  have hw := Nat.not_lt.mpr hn
  have hf := resetOf_fault x
  have hr := resetOf_short (x := x) h0
  exact ⟨takesFault_of_verdict (.rdbits n) hf nofun ((if_neg hw).trans (if_pos hr)),
    takesFault_of_verdict (.rdbitss n) hf nofun ((if_neg hw).trans ((if_neg h0).trans (if_pos hr))),
    exec_of_verdict_ok (.trybits n) hf nofun ((if_neg hw).trans (if_pos hr)),
    exec_of_verdict_ok (.trybitss n) hf nofun ((if_neg hw).trans ((if_neg h0).trans (if_pos hr)))⟩

theorem skip_after_reset (h0 : n ≠ 0) :
    TakesFault (State.resetOf x) .underrun (exec (.skip n) (State.resetOf x)) :=
  takesFault_of_verdict (.skip n) (resetOf_fault x) nofun (if_pos (resetOf_short h0))

end AfterReset

/-- Settles O41: the verdicts at an empty buffer, by the operand. -/
theorem commandsAfterReset : Obligations.CommandsAfterReset := by
  intro x n
  have hf := resetOf_fault x
  refine ⟨exec_of_verdict_ok (.remain n) hf nofun (if_pos (Nat.two_pow_pos x)), ?_,
    exec_of_verdict_ok (.trybit n) hf nofun rfl, takesFault_of_verdict (.rdbit n) hf nofun rfl,
    takesFault_of_verdict (.findsub n) hf nofun rfl, takesFault_of_verdict (.lsplbr n) hf nofun rfl,
    takesFault_of_verdict (.lspnb n) hf nofun rfl, ?_⟩
  · rw [← decide_eq_decide.mpr (Nat.le_zero (i := n))]
    exact exec_of_verdict_ok (.hasrem n) hf nofun rfl
  split
  · next h0 =>
    subst h0
    exact commands_after_reset_zero
  next h0 =>
  split
  · next hn =>
    obtain ⟨hr, hrs, ht, hts⟩ := commands_after_reset_legal (x := x) h0 hn
    exact ⟨hr, hrs, ht, hts, skip_after_reset h0⟩
  · next hn =>
    replace hn := Nat.lt_of_not_le hn
    exact ⟨takesFault_of_verdict (.rdbits n) hf nofun (if_pos hn),
      takesFault_of_verdict (.rdbitss n) hf nofun (if_pos hn),
      takesFault_of_verdict (.trybits n) hf nofun (if_pos hn),
      takesFault_of_verdict (.trybitss n) hf nofun (if_pos hn), skip_after_reset h0⟩

/-! ### Reads one after another -/

theorem State.setRead_advance_setRead (s : State) (n : Nat) (r r' : Option Result) :
    ((s.setRead r).advance n).setRead r' = (s.advance n).setRead r' := rfl

theorem State.remaining_setRead (s : State) (r : Option Result) : (s.setRead r).remaining = s.remaining := rfl

theorem State.fieldValue_setRead (s : State) (r : Option Result) (p n : Nat) :
    (s.setRead r).fieldValue p n = s.fieldValue p n :=
  State.fieldValue_congr rfl rfl p n

/-- R107 (e): a read delivers its field wherever the reads before it have left the cursor; what they delivered is
overwritten. -/
theorem execAll_rdbits {s : State} {ks : List Nat} {m : Nat} (hf : s.fault = false) (hks : ∀ k ∈ ks, k ≤ 32)
    (hm : m ≤ 32) (h : ks.sum + m ≤ s.remaining) :
    execAll (ks.map Instr.rdbits ++ [.rdbits m]) s =
      .next ((s.advance (ks.sum + m)).setRead (some (zext32 (s.fieldValue (s.pos + ks.sum) m)))) := by
  induction ks generalizing s with
  | nil =>
    rw [List.sum_nil, Nat.zero_add] at h
    simp only [List.map_nil, List.nil_append, execAll, exec_rdbits_eq hf hm h, List.sum_nil, Nat.zero_add, Nat.add_zero]
  | cons k ks ih =>
    rw [List.sum_cons] at h
    simp only [List.map_cons, List.cons_append, execAll]
    rw [exec_rdbits_eq hf (hks k List.mem_cons_self) (by omega)]
    have hrest : ks.sum + m ≤ ((s.advance k).setRead (some (zext32 (s.fieldValue s.pos k)))).remaining := by
      rw [State.remaining_setRead, State.remaining_advance]
      omega
    refine (ih (s := (s.advance k).setRead _) hf (fun j hj => hks j (List.mem_cons_of_mem k hj)) hrest).trans ?_
    simp only [State.setRead_advance_setRead, State.advance_advance, State.fieldValue_setRead, State.fieldValue_advance,
      State.setRead_pos, State.advance_pos, List.sum_cons, Nat.add_assoc]

/-- Settles O38: both sides read the field behind the bits passed over. -/
theorem skipEqualsReadAndDiscard : Obligations.SkipEqualsReadAndDiscard := by
  intro s ks m hf hks hm h
  have hrem := s.remaining_advance ks.sum
  rw [execAll_rdbits hf hks hm h, execAll, exec_skip_eq hf (by omega)]
  simp only [execAll, exec_rdbits_eq (s := s.advance ks.sum) hf hm (by omega), State.advance_pos,
    State.fieldValue_advance, State.advance_advance]

/-- Settles O39: a field in two parts. -/
theorem readsSplit : Obligations.ReadsSplit := by
  intro s a b hf hw h
  have hb : b ≤ ((s.advance a).setRead (some (zext32 (s.fieldValue s.pos a)))).remaining := by
    rw [State.remaining_setRead, State.remaining_advance]
    omega
  refine ⟨_, _, _, exec_rdbits_eq hf (by omega) (by omega),
    exec_rdbits_eq (s := (s.advance a).setRead _) hf (by omega) hb, exec_rdbits_eq hf hw h, ?_, ?_⟩
  · simp only [State.setRead_res, Option.getD_some, State.fieldValue_setRead, State.fieldValue_advance, State.setRead_pos,
      State.advance_pos]
    rw [zext32_toNat hw (s.fieldValue_lt _ _), zext32_toNat (n := a) (by omega) (s.fieldValue_lt _ _),
      zext32_toNat (n := b) (by omega) (s.fieldValue_lt _ _)]
    exact s.fieldValue_add s.pos a b
  · exact Nat.add_assoc _ _ _

/-! ### Aligned reads -/

/-- R52, R53: the first `n` bits of a byte of the buffer, as a field. -/
theorem State.fieldValue_byte {s : State} {a n : Nat} (ha : a < s.len) (hn : n ≤ 8) :
    s.fieldValue (8 * a) n = (Memory.read s.buf a).toNat / 2 ^ (8 - n) := by
  induction n with
  | zero => exact (Nat.div_eq_of_lt (Memory.read s.buf a).isLt).symm
  | succ n ih =>
    have hbit : s.bitAt (8 * a + n) = (Memory.read s.buf a).toNat / 2 ^ (7 - n) % 2 := by
      rw [State.bitAt_of_lt (by rw [State.bits_eq]; omega), show (8 * a + n) / 8 = a by omega,
        show (8 * a + n) % 8 = n by omega, BitVec.getLsbD, Nat.testBit_eq_decide_div_mod_eq]
      rcases Nat.mod_two_eq_zero_or_one ((Memory.read s.buf a).toNat / 2 ^ (7 - n)) with h | h <;> simp [h]
    rw [State.fieldValue_succ, ih (by omega), hbit, show 8 - n = (7 - n) + 1 by omega, Nat.pow_succ,
      ← Nat.div_div_eq_div_mul, show 8 - (n + 1) = 7 - n by omega]
    exact Nat.div_add_mod _ 2

/-- R53: a field that begins with a whole byte. -/
theorem State.fieldValue_byte_add {s : State} {a : Nat} (ha : a < s.len) (n : Nat) :
    s.fieldValue (8 * a) (8 + n) = (Memory.read s.buf a).toNat * 2 ^ n + s.fieldValue (8 * (a + 1)) n := by
  rw [State.fieldValue_add, State.fieldValue_byte ha (Nat.le_refl 8), Nat.sub_self, Nat.pow_zero, Nat.div_one]
  rfl

/-- Settles O40: by the bytes of the field. -/
theorem alignedReadsAreBigEndian : Obligations.AlignedReadsAreBigEndian := by
  intro s hf hp
  obtain ⟨a, ha⟩ : ∃ a, s.pos = 8 * a := ⟨s.pos / 8, by omega⟩
  have hbyte : s.pos / 8 = a := by omega
  have hlen : ∀ n, 8 * n ≤ s.remaining → 0 < n → a + n ≤ s.len := by
    intro n h h0
    rw [State.remaining, State.bits_eq] at h
    omega
  refine ⟨fun h => ⟨_, exec_rdbits_eq hf (by decide) h, ?_⟩, fun h => ⟨_, exec_rdbits_eq hf (by decide) h, ?_⟩⟩
  · have h1 := hlen 1 h (by decide)
    rw [State.setRead_res, Option.getD_some, zext32_toNat (by decide) (s.fieldValue_lt _ _), hbyte, ha,
      State.fieldValue_byte (by omega) (Nat.le_refl 8), Nat.sub_self, Nat.pow_zero, Nat.div_one]
  · have h4 := hlen 4 h (by decide)
    rw [State.setRead_res, Option.getD_some, zext32_toNat (by decide) (s.fieldValue_lt _ _), hbyte, ha,
      State.fieldValue_byte_add (by omega) 24, State.fieldValue_byte_add (by omega) 16,
      State.fieldValue_byte_add (by omega) 8, State.fieldValue_byte_add (by omega) 0, State.fieldValue_zero]
    ring

end Sys2Proof.Machine
end

section
/-! The statements about the frame header (41_frame_header.md): the shapes of R72, the fault table, and which bits are
read. -/

namespace Sys2Proof.Machine

/-! ### The outcome of a header -/

/-- `FINDSUB` performs the outcome of the closed form. -/
theorem findSubmode_outcome {s : State} (table : Tag → Nat) (hf : s.fault = false) :
    (s.command fun s => s.findSubmode table) = .next (s.answer (s.headerVerdict table)) :=
  State.command_conclude hf ((s.findSubmode_concludes table).trans (by rw [State.headerVerdict_eq]))

/-- A code of the closed form is a legal one. -/
theorem State.selectorAt_ok {s : State} {q q' c : Nat} (h : s.selectorAt q = .ok (q', c)) :
    c ≤ 8 ∧ q' = q + 4 ∧ c = s.fieldValue q 4 := by
  dsimp only [State.selectorAt] at h
  split_ifs at h with hc
  cases h
  exact ⟨hc, rfl, rfl⟩

/-- A selector's fault is one of R75's four. -/
theorem State.selectorAt_error {s : State} {q : Nat} {c : Cause} (h : s.selectorAt q = .error c) :
    c = .reservedSubmode ∨ c = .nhUserInband ∨ c = .nhCodecInband ∨ c = .nhTerminator := by
  dsimp only [State.selectorAt] at h
  split_ifs at h <;> cases h <;> simp

theorem State.selectorAt_legal {s : State} {q : Nat} (h : s.fieldValue q 4 ≤ 8) :
    s.selectorAt q = .ok (q + 4, s.fieldValue q 4) :=
  if_pos h

/-- Every code the closed form comes to is a legal one (R75, R147). -/
theorem State.headerOutcome_ok {s : State} {table : Tag → Nat} {q c : Nat} (h : s.headerOutcome table = .ok (q, c)) :
    c ≤ 8 := by
  dsimp only [State.headerOutcome] at h
  split_ifs at h <;> exact (State.selectorAt_ok h).1

/-- Settles O48: the resolver and the closed form have one verdict. -/
theorem findsubFollowsTheFaultTable : Obligations.FindsubFollowsTheFaultTable := by
  refine ⟨fun _ _ => rfl, fun table s hf => ?_⟩
  rw [findSubmode_outcome table hf, State.headerVerdict]
  cases h : s.headerOutcome table with
  | error c => exact takesFault_takeFault s c
  | ok r =>
    have hc : r.2 < 2 ^ 4 := Nat.lt_of_le_of_lt (State.headerOutcome_ok h) (by decide)
    exact ⟨_, rfl, rfl, Nat.mod_eq_of_lt hc, rfl⟩

section Findsub
variable {s : State} (n : Nat) (hf : s.fault = false)
include hf

/-- A header that ends in a legal selector at `q`. -/
theorem exec_findsub_select {q : Nat} (ho : s.headerOutcome (Config.wbSkip s.xlen) = s.selectorAt q)
    (hc : s.fieldValue q 4 ≤ 8) :
    ∃ t, exec (.findsub n) s = .next t ∧ t.pos = q + 4 ∧ t.remaining = s.bits - (q + 4) ∧
      t.sub.toNat = s.fieldValue q 4 ∧ t = { s with pos := t.pos, sub := t.sub } := by
  rw [State.selectorAt_legal hc] at ho
  have hv : s.verdict (.findsub n) = .ok (q + 4, .sub (BitVec.ofNat _ (s.fieldValue q 4))) := congrArg (Except.map _) ho
  exact ⟨_, exec_of_verdict_ok (.findsub n) hf nofun hv, rfl, rfl, Nat.mod_eq_of_lt (s.fieldValue_lt q 4), rfl⟩

/-- A header that ends in a fault. -/
theorem exec_findsub_fault {c : Cause} (ho : s.headerOutcome (Config.wbSkip s.xlen) = .error c) :
    TakesFault s c (exec (.findsub n) s) :=
  takesFault_of_verdict (.findsub n) hf nofun (congrArg (Except.map _) ho)

end Findsub

/-! ### The shapes of R72 -/

section Shapes
variable {s : State} {table : Tag → Nat} {s1 s2 : Nat}

theorem State.headerOutcome_plain (h : 5 ≤ s.remaining) (f1 : s.bitAt s.pos = 0) :
    s.headerOutcome table = s.selectorAt (s.pos + 1) := by
  dsimp only [State.headerOutcome]
  rw [if_neg (by omega), if_pos f1]

variable (hs1 : s.skipAt table (s.pos + 1) = s1)
include hs1

theorem State.headerOutcome_one_layer (h : 9 + s1 ≤ s.remaining) (f1 : s.bitAt s.pos = 1)
    (f2 : s.bitAt (s.pos + 4 + s1) = 0) : s.headerOutcome table = s.selectorAt (s.pos + 5 + s1) := by
  dsimp only [State.headerOutcome]
  rw [hs1, if_neg (by omega), if_neg (by omega), if_neg (by omega), if_neg (by omega), if_pos f2]

variable (hs2 : s.skipAt table (s.pos + 5 + s1) = s2)
include hs2

theorem State.headerOutcome_two_layers (h : 13 + s1 + s2 ≤ s.remaining) (f1 : s.bitAt s.pos = 1)
    (f2 : s.bitAt (s.pos + 4 + s1) = 1) (f3 : s.bitAt (s.pos + 8 + s1 + s2) = 0) :
    s.headerOutcome table = s.selectorAt (s.pos + 9 + s1 + s2) := by
  dsimp only [State.headerOutcome]
  rw [hs1, hs2, if_neg (by omega), if_neg (by omega), if_neg (by omega), if_neg (by omega), if_neg (by omega),
    if_neg (by omega), if_neg (by omega), if_neg (by omega), if_neg (by omega)]

theorem State.headerOutcome_third_layer (h : 9 + s1 + s2 ≤ s.remaining) (f1 : s.bitAt s.pos = 1)
    (f2 : s.bitAt (s.pos + 4 + s1) = 1) (f3 : s.bitAt (s.pos + 8 + s1 + s2) = 1) :
    s.headerOutcome table = .error .tooManyWbLayers := by
  dsimp only [State.headerOutcome]
  rw [hs1, hs2, if_neg (by omega), if_neg (by omega), if_neg (by omega), if_neg (by omega), if_neg (by omega),
    if_neg (by omega), if_neg (by omega), if_pos f3]

end Shapes

/-- Settles O42: shape `H0`. -/
theorem findsubPlainHeader : Obligations.FindsubPlainHeader := by
  intro n s hf h f1 hc
  obtain ⟨t, hx, hpos, hrem, hsub, hframe⟩ := exec_findsub_select n hf (State.headerOutcome_plain h f1) hc
  exact ⟨t, hx, hpos, hrem.trans (Nat.sub_sub _ _ _).symm, hsub, hframe⟩

/-- Settles O43: shape `H1`. -/
theorem findsubOneLayer : Obligations.FindsubOneLayer := by
  intro n s s1 hf hs1 h f1 f2 hc
  obtain ⟨t, hx, hpos, hrem, hsub, hframe⟩ := exec_findsub_select n hf (State.headerOutcome_one_layer hs1 h f1 f2) hc
  refine ⟨t, hx, by omega, ?_, hsub, hframe⟩
  rw [hrem, State.remaining]
  omega

/-- Settles O44: shape `H2`. -/
theorem findsubTwoLayers : Obligations.FindsubTwoLayers := by
  intro n s s1 s2 hf hs1 hs2 h f1 f2 f3 hc
  obtain ⟨t, hx, hpos, hrem, hsub, hframe⟩ :=
    exec_findsub_select n hf (State.headerOutcome_two_layers hs1 hs2 h f1 f2 f3) hc
  refine ⟨t, hx, by omega, ?_, hsub, hframe⟩
  rw [hrem, State.remaining]
  omega

/-- Settles O45. -/
theorem findsubThirdLayerFaults : Obligations.FindsubThirdLayerFaults :=
  fun n _ _ _ hf hs1 hs2 h f1 f2 f3 => exec_findsub_fault n hf (State.headerOutcome_third_layer hs1 hs2 h f1 f2 f3)

/-- Settles O46: shape `H1` with a payload of no bits. -/
theorem findsubTagZeroHasNoPayload : Obligations.FindsubTagZeroHasNoPayload := by
  intro n s hf h f1 htag f2 hc
  have hs1 : s.skipAt (Config.wbSkip s.xlen) (s.pos + 1) = 0 := by
    rw [State.skipAt, htag]
    rfl
  obtain ⟨t, hx, hpos, -, hsub, hframe⟩ := findsubOneLayer n s 0 hf hs1 h f1 f2 hc
  exact ⟨t, hx, hpos, hsub, hframe⟩

/-- Settles O47: R75's rows of a selector that is not legal. -/
theorem findsubSelectorFaults : Obligations.FindsubSelectorFaults := by
  intro n s hf h f1
  have ho := State.headerOutcome_plain (table := Config.wbSkip s.xlen) h f1
  refine ⟨fun h9 h12 => ?_, fun hc => ?_, fun hc => ?_, fun hc => ?_⟩ <;> refine exec_findsub_fault n hf (ho.trans ?_)
  · dsimp only [State.selectorAt]
    rw [if_neg (by omega), if_pos h12]
  all_goals
    dsimp only [State.selectorAt]
    rw [hc]
    rfl

/-- Settles O49: without a second layer the closed form ends in the selector. -/
theorem selectorIsThereWithoutASecondLayer : Obligations.SelectorIsThereWithoutASecondLayer := by
  intro n s t s1 hf h ht hs1 hshape
  obtain ⟨q, ho⟩ : ∃ q, s.headerOutcome (Config.wbSkip s.xlen) = s.selectorAt q := by
    rcases hshape with ⟨f1, h5⟩ | ⟨f1, h9, f2⟩
    · exact ⟨_, State.headerOutcome_plain h5 f1⟩
    · exact ⟨_, State.headerOutcome_one_layer hs1 h9 f1 f2⟩
  cases hq : s.selectorAt q with
  | error c =>
    obtain ⟨u, hu, -, hcause, -⟩ := exec_findsub_fault n hf (ho.trans hq)
    cases hu.symm.trans h
    rw [hcause]
    rcases State.selectorAt_error hq with rfl | rfl | rfl | rfl <;> simp
  | ok r =>
    obtain ⟨hc, -, hr⟩ := State.selectorAt_ok (q' := r.1) (c := r.2) hq
    obtain ⟨u, hu, -, -, -, hframe⟩ := exec_findsub_select n hf ho (hr ▸ hc)
    cases hu.symm.trans h
    rw [hframe] at ht
    cases hf.symm.trans ht

/-! ### Which bits are read -/

section Agree
variable {s t : State} {table : Tag → Nat}

/-- A field is its bits (R53). -/
theorem State.fieldValue_congr_bits {p n : Nat} (h : ∀ i < n, t.bitAt (p + i) = s.bitAt (p + i)) :
    t.fieldValue p n = s.fieldValue p n :=
  Finset.sum_congr rfl fun i hi => by rw [h i (Finset.mem_range.mp hi)]

theorem State.skipAt_congr_bits {q : Nat} (h : ∀ i < 3, t.bitAt (q + i) = s.bitAt (q + i)) :
    t.skipAt table q = s.skipAt table q := by
  rw [State.skipAt, State.skipAt, State.fieldValue_congr_bits h]

theorem State.selectorAt_congr_bits {q : Nat} (h : ∀ i < 4, t.bitAt (q + i) = s.bitAt (q + i)) :
    t.selectorAt q = s.selectorAt q := by
  simp only [State.selectorAt, State.fieldValue_congr_bits h]

/-- R73: the closed form depends on the header's flags, tags and selector, and on no other bit: with no layer, one layer,
two layers. -/
theorem State.headerOutcome_congr (hpos : t.pos = s.pos) (hrem : t.remaining = s.remaining)
    (h : ∀ k ∈ s.headerReads table, t.bitAt k = s.bitAt k) : t.headerOutcome table = s.headerOutcome table := by
  dsimp only [State.headerReads] at h
  dsimp only [State.headerOutcome]
  rw [hpos, hrem]
  by_cases f1 : s.bitAt s.pos = 0
  · rw [if_pos f1] at h
    simp only [List.mem_cons, List.not_mem_nil, or_false] at h
    rw [h s.pos (by omega), State.selectorAt_congr_bits (q := s.pos + 1) fun i hi => h _ (by omega), if_pos f1, if_pos f1]
  rw [if_neg f1] at h
  generalize hs1 : s.skipAt table (s.pos + 1) = s1 at h ⊢
  by_cases f2 : s.bitAt (s.pos + 4 + s1) = 0
  · rw [if_pos f2] at h
    simp only [List.mem_cons, List.not_mem_nil, or_false] at h
    rw [h s.pos (by omega), State.skipAt_congr_bits (q := s.pos + 1) fun i hi => h _ (by omega), hs1,
      h (s.pos + 4 + s1) (by omega), State.selectorAt_congr_bits (q := s.pos + 5 + s1) fun i hi => h _ (by omega)]
    simp only [if_neg f1, if_pos f2]
  rw [if_neg f2] at h
  generalize hs2 : s.skipAt table (s.pos + 5 + s1) = s2 at h ⊢
  simp only [List.mem_cons, List.not_mem_nil, or_false] at h
  rw [h s.pos (by omega), State.skipAt_congr_bits (q := s.pos + 1) fun i hi => h _ (by omega), hs1,
    h (s.pos + 4 + s1) (by omega), State.skipAt_congr_bits (q := s.pos + 5 + s1) fun i hi => h _ (by omega), hs2,
    h (s.pos + 8 + s1 + s2) (by omega), State.selectorAt_congr_bits (q := s.pos + 9 + s1 + s2) fun i hi => h _ (by omega)]
  simp only [if_neg f1, if_neg f2]

end Agree

/-- Settles O50: the closed form of both buffers is one. -/
theorem skippedPayloadIsUnread : Obligations.SkippedPayloadIsUnread := by
  intro n s other hf h
  have hv : State.verdict { s with buf := other } (.findsub n) = s.verdict (.findsub n) :=
    congrArg (Except.map _) (State.headerOutcome_congr (t := { s with buf := other }) rfl rfl h)
  refine ⟨_, _, exec_answer (.findsub n) hf nofun, exec_answer (s := { s with buf := other }) (.findsub n) hf nofun, ?_⟩
  rw [hv]
  cases s.verdict (.findsub n) with
  | error c => exact ⟨rfl, rfl, rfl, rfl, nofun⟩
  | ok v =>
    obtain ⟨q, w⟩ := v
    cases w <;> exact ⟨rfl, rfl, rfl, rfl, fun _ => rfl⟩

end Sys2Proof.Machine
end

section
/-! The fields of the stream taken one at a time (log 4, log 5), and the commands as their fields (41_frame_header.md,
42_lsp_readers.md). -/

namespace Sys2Proof.Machine

/-! ### Single fields -/

/-- An instruction whose verdict is `v` where `n` bits are left, and the fault `c` otherwise. -/
theorem exec_of_within {i : Instr} {s : State} {n : Nat} {c : Cause} {v : Verdict} {P : Prop} (hf : s.fault = false)
    (hl : ∀ n, i ≠ .load n) (hv : s.verdict i = s.within n c v) (hP : exec i s = .next (s.answer v) → P) :
    if n ≤ s.remaining then P else TakesFault s c (exec i s) := by
  split
  · next h =>
    refine hP ?_
    rw [exec_answer i hf hl, hv, State.within_eq h]
  · next h => exact takesFault_of_verdict i hf hl (hv.trans (State.within_short (Nat.lt_of_not_le h)))

/-- Settles O52: four instructions, one verdict. -/
theorem flagFieldsMoveByOne : Obligations.FlagFieldsMoveByOne := by
  intro i s hf hi
  have hi : (∀ n, i ≠ .load n) ∧ s.verdict i = s.flagVerdict := by
    fin_cases hi <;> exact ⟨nofun, rfl⟩
  exact exec_of_within hf hi.1 hi.2 fun hx => ⟨_, hx, rfl, rfl⟩

/-- Settles O53: by whether the bit is left. -/
theorem thirdFlagField : Obligations.ThirdFlagField := by
  intro s hf
  split
  · next h =>
    exact ⟨⟨_, exec_of_verdict_ok .f3Clear hf nofun (State.within_eq h), rfl, rfl⟩,
      takesFault_of_verdict .f3Set hf nofun (State.within_eq h)⟩
  · next h =>
    replace h := Nat.lt_of_not_le h
    exact ⟨takesFault_of_verdict .f3Clear hf nofun (State.within_short h),
      takesFault_of_verdict .f3Set hf nofun (State.within_short h)⟩

/-- Settles O54: eight instructions, one verdict by the tag. -/
theorem tagFieldsSkipTheirLayer : Obligations.TagFieldsSkipTheirLayer := by
  intro i tag s hf hi
  have hi : (∀ n, i ≠ .load n) ∧ s.verdict i = s.tagVerdict (Config.wbSkip s.xlen tag) := by
    fin_cases hi <;> exact ⟨nofun, rfl⟩
  exact exec_of_within hf hi.1 hi.2 fun hx => ⟨_, hx, (Nat.add_assoc _ _ _).symm, rfl⟩

/-- Settles O55: nine instructions, one verdict by the code. -/
theorem codeFieldsSelect : Obligations.CodeFieldsSelect := by
  intro i c s hf hi
  have hi : (∀ n, i ≠ .load n) ∧ s.verdict i = s.within 4 .notEnoughBits (.ok (s.pos + 4, .sub c)) := by
    fin_cases hi <;> exact ⟨nofun, rfl⟩
  exact exec_of_within hf hi.1 hi.2 fun hx => ⟨_, hx, rfl, rfl, rfl⟩

/-- Settles O56: seven instructions, one verdict by the cause. -/
theorem codeFieldsFault : Obligations.CodeFieldsFault := by
  intro i c s hf hi
  have hi : (∀ n, i ≠ .load n) ∧ s.verdict i = s.within 4 .notEnoughBits (.error c) := by
    fin_cases hi <;> exact ⟨nofun, rfl⟩
  exact exec_of_within hf hi.1 hi.2 fun hx => hx ▸ takesFault_takeFault s c

/-! ### LSP records -/

/-- Settles O57: each record's one write. -/
theorem lspRecordFields : Obligations.LspRecordFields := fun _ _ _ _ _ _ hf =>
  ⟨exec_of_within hf nofun rfl fun hx => ⟨_, hx, rfl, rfl, rfl⟩,
    exec_of_within hf nofun rfl fun hx => ⟨_, hx, rfl, rfl, rfl⟩⟩

theorem State.indexAt_toNat (s : State) (q : Nat) : (s.indexAt q).toNat = s.fieldValue q 6 :=
  Nat.mod_eq_of_lt (s.fieldValue_lt q 6)

/-- Settles O58: the record's three indices, and two zeros. -/
theorem lsplbrReadsThree : Obligations.LsplbrReadsThree := by
  intro n s hf
  refine exec_of_within (i := .lsplbr n) hf nofun rfl fun hx => ⟨_, hx, rfl, fun i => ?_, rfl⟩
  fin_cases i
  · exact s.indexAt_toNat s.pos
  · exact s.indexAt_toNat (s.pos + 6)
  · exact s.indexAt_toNat (s.pos + 12)
  · rfl
  · rfl

/-- Settles O59: the record's five indices. -/
theorem lspnbReadsFive : Obligations.LspnbReadsFive := by
  intro n s hf
  refine exec_of_within (i := .lspnb n) hf nofun rfl fun hx => ⟨_, hx, rfl, fun i => ?_, rfl⟩
  fin_cases i
  · exact s.indexAt_toNat s.pos
  · exact s.indexAt_toNat (s.pos + 6)
  · exact s.indexAt_toNat (s.pos + 12)
  · exact s.indexAt_toNat (s.pos + 18)
  · exact s.indexAt_toNat (s.pos + 24)

/-! ### A field request, by the bits at the cursor -/

/-- What taking one field at the cursor comes to. -/
def State.fieldVerdict (s : State) : FieldKind → Verdict
  | .flag1 | .flag2 => s.flagVerdict
  | .flag3 => s.thirdFlagVerdict (decide (s.bitAt s.pos ≠ 0))
  | .tag => s.tagVerdict (s.skipAt (Config.wbSkip s.xlen) s.pos)
  | .code => s.fromSelector
  | .lspLbr => s.verdict (.lsplbr 0)
  | .lspNb => s.verdict (.lspnb 0)

/-- Where the stream ends before the field (R141, R160, R161). -/
theorem State.fieldVerdict_short {s : State} {k : FieldKind} (h : s.remaining < k.width) :
    s.fieldVerdict k = .error (shortCause k) := by
  cases k <;> simp only [FieldKind.width, Config.flagW, Config.tagW, Config.codeW, Config.lspW] at h <;>
    exact State.within_short (by omega)

theorem State.verdict_decodeTag (s : State) {v : Nat} (h : v < 8) :
    s.verdict (decodeTag v) = s.tagVerdict (Config.wbSkip s.xlen (BitVec.ofNat _ v)) := by
  interval_cases v <;> rfl

theorem State.verdict_decodeCode (s : State) {v : Nat} (h : v < 16) :
    s.verdict (decodeCode v) = s.selectorVerdict v := by
  interval_cases v <;> rfl

/-- R53: an index of a record is a field of its own. -/
theorem lspIndexAt_fieldValue (s : State) (p : Nat) {n a b : Nat} (hn : n = a + 6 + b) :
    lspIndexAt (s.fieldValue p n) b = s.indexAt (p + a) := by
  subst hn
  rw [BitVec.toNat_eq, lspIndexAt_toNat, State.indexAt_toNat, State.fieldValue_add, Nat.mul_comm,
    Nat.mul_add_div (Nat.two_pow_pos b), Nat.div_eq_of_lt (s.fieldValue_lt _ b), Nat.add_zero, State.fieldValue_add]
  exact Nat.mul_add_mod_of_lt (s.fieldValue_lt _ 6)

/-- Where the field is there, its verdict is that of the element its bits are. -/
theorem State.verdict_decodeFieldValue (s : State) (k : FieldKind) :
    s.verdict (decodeFieldValue k (s.fieldValue s.pos k.width)) = s.fieldVerdict k := by
  cases k
  case tag => exact s.verdict_decodeTag (s.fieldValue_lt s.pos 3)
  case code => exact s.verdict_decodeCode (s.fieldValue_lt s.pos 4)
  case flag1 | flag2 =>
    dsimp only [decodeFieldValue]
    split <;> rfl
  case flag3 =>
    dsimp only [decodeFieldValue, State.fieldVerdict, FieldKind.width]
    rw [State.fieldValue_one]
    split
    · next h => rw [decide_eq_false (not_not.mpr h)]; rfl
    · next h => rw [decide_eq_true h]; rfl
  case lspLbr =>
    change s.lspVerdict 18 #v[lspIndexAt (s.fieldValue s.pos 18) 12, lspIndexAt (s.fieldValue s.pos 18) 6,
      lspIndexAt (s.fieldValue s.pos 18) 0, 0, 0] = _
    rw [lspIndexAt_fieldValue s s.pos (n := 18) (a := 0) (b := 12) rfl,
      lspIndexAt_fieldValue s s.pos (n := 18) (a := 6) (b := 6) rfl,
      lspIndexAt_fieldValue s s.pos (n := 18) (a := 12) (b := 0) rfl]
    rfl
  case lspNb =>
    change s.lspVerdict 30 #v[lspIndexAt (s.fieldValue s.pos 30) 24, lspIndexAt (s.fieldValue s.pos 30) 18,
      lspIndexAt (s.fieldValue s.pos 30) 12, lspIndexAt (s.fieldValue s.pos 30) 6,
      lspIndexAt (s.fieldValue s.pos 30) 0] = _
    rw [lspIndexAt_fieldValue s s.pos (n := 30) (a := 0) (b := 24) rfl,
      lspIndexAt_fieldValue s s.pos (n := 30) (a := 6) (b := 18) rfl,
      lspIndexAt_fieldValue s s.pos (n := 30) (a := 12) (b := 12) rfl,
      lspIndexAt_fieldValue s s.pos (n := 30) (a := 18) (b := 6) rfl,
      lspIndexAt_fieldValue s s.pos (n := 30) (a := 24) (b := 0) rfl]
    rfl

/-- A field request from an unfaulted state. -/
theorem runField_answer {s : State} (k : FieldKind) (hf : s.fault = false) :
    runField k s = .next (s.answer (s.fieldVerdict k)) := by
  rcases Nat.lt_or_ge s.remaining k.width with h | h
  · rw [runField_short hf h, State.fieldVerdict_short h]
    rfl
  · have hl : ∀ n, decodeFieldValue k (s.fieldValue s.pos k.width) ≠ .load n := fun n hn => by
      have hformat := decodeFieldValue_format k (s.fieldValue s.pos k.width)
      rw [hn] at hformat
      cases hformat
    rw [runField_eq hf h, exec_answer _ hf hl, State.verdict_decodeFieldValue]

/-- Outcomes that are one. -/
theorem SameOutcome.of_next {o o' : Host.Outcome State Fault Refusal} {t : State} (h : o = .next t) (h' : o' = .next t) :
    SameOutcome o o' :=
  ⟨t, t, h, h', rfl, rfl, rfl, rfl, rfl, rfl, rfl, fun _ => rfl⟩

/-- Settles O60: a reader's verdict is its record's. -/
theorem lspReadersTakeTheirRecords : Obligations.LspReadersTakeTheirRecords := by
  intro n s
  cases hf : s.fault with
  | true =>
    exact ⟨.of_next (exec_ignored nofun hf) (runField_ignored .lspLbr hf),
      .of_next (exec_ignored nofun hf) (runField_ignored .lspNb hf)⟩
  | false =>
    exact ⟨.of_next (exec_answer (.lsplbr n) hf nofun) (runField_answer .lspLbr hf),
      .of_next (exec_answer (.lspnb n) hf nofun) (runField_answer .lspNb hf)⟩

/-! ### `FINDSUB` and its fields -/

theorem runFields_ignored (ks : List FieldKind) {s : State} (hf : s.fault = true) : runFields ks s = .next s := by
  induction ks with
  | nil => rfl
  | cons k ks ih => simpa only [runFields, runField_ignored k hf] using ih

/-- A verdict's state does not depend on where the cursor has got to. -/
theorem State.answer_advance (s : State) (n : Nat) (v : Verdict) : (s.advance n).answer v = s.answer v := by
  cases v <;> rfl

/-- A field that moves the cursor by `n` bits where `m` are left, and then the others. -/
theorem runFields_move {s : State} {k : FieldKind} {ks : List FieldKind} {m n : Nat} {c : Cause} {v : Verdict}
    (hf : s.fault = false) (hk : s.fieldVerdict k = s.within m c (.ok (s.pos + n, .nothing)))
    (hks : runFields ks (s.advance n) = .next (s.answer v)) :
    runFields (k :: ks) s = .next (s.answer (s.within m c v)) := by
  rw [runFields, runField_answer k hf, hk]
  rcases Nat.lt_or_ge s.remaining m with h | h
  · rw [State.within_short h, State.within_short h]
    exact runFields_ignored ks rfl
  · rw [State.within_eq h, State.within_eq h]
    exact hks

/-- The last field. -/
theorem runFields_last {s : State} {k : FieldKind} (hf : s.fault = false) :
    runFields [k] s = .next (s.answer (s.fieldVerdict k)) := by
  simp only [runFields, runField_answer k hf]

/-- From the selector on, one bit past a clear flag. -/
theorem runFields_selector {s : State} (hf : s.fault = false) :
    runFields [.code] (s.advance 1) = .next (s.answer (s.advance 1).fromSelector) := by
  rw [runFields_last (s := s.advance 1) hf, State.answer_advance]
  rfl

section Findsub
variable {s : State} (hf : s.fault = false)
include hf

/-- From the third flag on. A set flag is a fault, after which the selector is not taken. -/
theorem runFields_fromThirdFlag : runFields [.flag3, .code] s = .next (s.answer s.fromThirdFlag) := by
  by_cases h : s.bitAt s.pos = 0
  · rw [State.fromThirdFlag, if_pos h]
    refine runFields_move hf ?_ (runFields_selector hf)
    rw [State.fieldVerdict, decide_eq_false (not_not.mpr h)]
    rfl
  · have hv : s.fieldVerdict .flag3 = s.fromThirdFlag := by
      rw [State.fieldVerdict, decide_eq_true h, State.fromThirdFlag, if_neg h]
      rfl
    obtain ⟨c, hc⟩ : ∃ c, s.fromThirdFlag = .error c := by
      rw [State.fromThirdFlag, if_neg h, State.within]
      split <;> exact ⟨_, rfl⟩
    rw [runFields, runField_answer .flag3 hf, hv, hc]
    exact runFields_ignored [.code] rfl

theorem runFields_fromSecondTag :
    runFields [.tag, .flag3, .code] s = .next (s.answer (s.fromSecondTag (Config.wbSkip s.xlen))) := by
  refine runFields_move hf rfl ?_
  rw [runFields_fromThirdFlag (s := s.advance _) hf, State.answer_advance]

/-- From the second flag on, by that flag. -/
theorem runFields_fromSecondFlag :
    runFields (if s.bitAt s.pos = 0 then [.flag2, .code] else [.flag2, .tag, .flag3, .code]) s =
      .next (s.answer (s.fromSecondFlag (Config.wbSkip s.xlen))) := by
  rw [State.fromSecondFlag]
  split
  · exact runFields_move hf rfl (runFields_selector hf)
  · refine runFields_move hf rfl ?_
    rw [runFields_fromSecondTag (s := s.advance 1) hf, State.answer_advance]
    rfl

/-- From the first tag on, by the second flag, which stands behind the first layer. -/
theorem runFields_fromFirstTag :
    runFields (.tag :: if s.bitAt (s.pos + (3 + s.skipAt (Config.wbSkip s.xlen) s.pos)) = 0 then [.flag2, .code]
      else [.flag2, .tag, .flag3, .code]) s = .next (s.answer (s.fromFirstTag (Config.wbSkip s.xlen))) := by
  refine runFields_move hf rfl ?_
  have hrest := runFields_fromSecondFlag (s := s.advance (3 + s.skipAt (Config.wbSkip s.xlen) s.pos)) hf
  rw [State.bitAt_advance, State.advance_pos, State.answer_advance] at hrest
  exact hrest

/-- From the first flag on, by the first two flags. -/
theorem runFields_fromFirstFlag :
    runFields (if s.bitAt s.pos = 0 then [.flag1, .code]
      else if s.bitAt (s.pos + 4 + s.skipAt (Config.wbSkip s.xlen) (s.pos + 1)) = 0 then [.flag1, .tag, .flag2, .code]
      else [.flag1, .tag, .flag2, .tag, .flag3, .code]) s =
      .next (s.answer (s.fromFirstFlag (Config.wbSkip s.xlen))) := by
  rw [State.fromFirstFlag]
  by_cases f1 : s.bitAt s.pos = 0
  · rw [if_pos f1, if_pos f1]
    exact runFields_move hf rfl (runFields_selector hf)
  rw [if_neg f1, if_neg f1]
  have hrest := runFields_fromFirstTag (s := s.advance 1) hf
  rw [State.bitAt_advance, State.skipAt_advance, State.advance_pos, State.advance_xlen, State.answer_advance,
    show s.pos + 1 + (3 + s.skipAt (Config.wbSkip s.xlen) (s.pos + 1)) =
      s.pos + 4 + s.skipAt (Config.wbSkip s.xlen) (s.pos + 1) by omega] at hrest
  split <;> rename_i f2
  · rw [if_pos f2] at hrest
    exact runFields_move hf rfl hrest
  · rw [if_neg f2] at hrest
    exact runFields_move hf rfl hrest

end Findsub

/-- Settles O51: both sides come to the header's verdict. -/
theorem findsubIsItsFields : Obligations.FindsubIsItsFields := by
  intro n s s1 hf hs1
  subst hs1
  refine .of_next (exec_answer (.findsub n) hf nofun) ((runFields_fromFirstFlag hf).trans ?_)
  rw [← State.headerVerdict_eq]
  rfl

end Sys2Proof.Machine
end
